-- ==== Sys2Proof/Word.lean ====
section
/-! DEFINITION. The word types of the Tarnith 216 and its names for the parts of a set of alike things. -/

namespace Sys2Proof

/-- One byte of a cell, a move element or card memory. -/
abbrev Byte := BitVec 8

/-- A 16-bit value: check codes, attention number, event mask, elements completed. -/
abbrev Half := BitVec 16

/-- A card address or a ring address (00_scope.md, Terms): a 32-bit byte address. -/
abbrev Addr := BitVec 32

/-- A slot number 0–31 (00_scope.md, Terms). -/
abbrev Slot := BitVec 5

/-- A tag number 0–15 (R47). -/
abbrev TagNo := Fin 16

/-- A staging buffer number 0–7 (R106). -/
abbrev BufNo := Fin 8

/-- A window index 0–15 (R66). -/
abbrev WindowNo := Fin 16

/-- Time in microseconds (00_scope.md, Conventions). -/
abbrev Time := Nat

/-- The two movers (chapter 2). -/
inductive MoverId where
  | m0
  | m1
  deriving DecidableEq, Repr

end Sys2Proof
end

