-- ==== Sys2Proof/Syntax.lean ====
section
/-! DEFINITION. The commands of the part: one constructor per row of spec/opcode_table.json. -/

namespace Sys2Proof

/-- What the card memory bus answers for an operation (R126): DONE, with the bytes of a read (none
for a write), or ERROR. -/
inductive BusAnswer where
  | done (bytes : List Byte)
  | error
  deriving DecidableEq, Repr

/-- Which of the two replies that may wait at the Management Unit (R156, *replies waiting*). -/
inductive ReplySource where
  /-- the reply of the cell last taken -/
  | lastTaken
  /-- the reply that completes a deferred command -/
  | deferred
  deriving DecidableEq, Repr

/-- The steps of the part, each whole and indivisible (95_what_each_step_holds.md). The table lists no
operands; those given here are what comes from outside the part, or which of several alike things the
step concerns. -/
inductive Instr where
  -- Ring Port
  /-- HARD_RESET (R154): the RESET pin is asserted and released, with `pins` on the slot-ID inputs. -/
  | hardReset (pins : Slot)
  /-- LINK_UP (R139). -/
  | linkUp
  /-- LINK_DOWN (R139). -/
  | linkDown
  /-- CELL_RECEIVED (R142): the bytes of the frame, and whether it held an invalid line character. -/
  | cellReceived (frame : List Byte) (invalidChar : Bool)
  /-- RING_OUT_CHOICE (R148), with downstream's ready indication. -/
  | ringOutChoice (downstreamReady : Bool)
  /-- CELL_FINISHED (R150). `choiceFirst`: if this finish is the reset point, the arbiter's next choice
  is taken before it, downstream being ready (R155). -/
  | cellFinished (choiceFirst : Bool)
  -- Inbound service
  /-- DISPATCH_CELL (R82). -/
  | dispatchCell
  /-- DISPATCHER_NAK_PLACED (R90). -/
  | dispatcherNakPlaced
  /-- RESPONDER_BUFFER_TAKEN (R97). -/
  | responderBufferTaken
  /-- INBOUND_ADMISSION (R68). -/
  | inboundAdmission
  /-- MOVER_QUEUE_WRITE_PLACED (R87). -/
  | moverQueueWritePlaced
  /-- IMQ_REPLY_PLACED (R96). -/
  | imqReplyPlaced
  -- Card Memory Port
  /-- MEMORY_GRANT (R123). -/
  | memoryGrant
  /-- MEMORY_ANSWER (R126): the answer the bus gives for the operation marked `serial` (R127). -/
  | memoryAnswer (serial : Nat) (answer : BusAnswer)
  /-- MEMORY_TIMEOUT (R127). -/
  | memoryTimeout
  -- Movers
  /-- PUSH_PIECE_ISSUE (R24). -/
  | pushPieceIssue (m : MoverId)
  /-- TRACKED_PIECE_ISSUE (R25). -/
  | trackedPieceIssue (m : MoverId)
  /-- PULL_PIECE_ISSUE (R26). -/
  | pullPieceIssue (m : MoverId)
  /-- PUSH_WRITE_PLACED (R27). -/
  | pushWritePlaced (m : MoverId)
  -- Timers of the Tag Table
  /-- TAG_DEADLINE_EXPIRY (R59, R60). -/
  | tagDeadlineExpiry (t : TagNo)
  /-- TAG_QUARANTINE_END (R61). -/
  | tagQuarantineEnd (t : TagNo)
  -- Management Unit and Event Unit
  /-- CLAIM_LAPSE (R159). -/
  | claimLapse
  /-- MGMT_REPLY_PLACED (R157), for one of the replies waiting. -/
  | mgmtReplyPlaced (which : ReplySource)
  /-- ATTENTION_REPEAT (R193). -/
  | attentionRepeat
  /-- ATTN_PLACED (R192). -/
  | attnPlaced
  -- Management commands: the Management Unit takes the MGMT cell in the Dispatcher's hand
  /-- CLAIM (R168). -/
  | claim
  /-- RELEASE (R169). -/
  | release
  /-- READ_STATUS (R170). -/
  | readStatus
  /-- READ_EVENTS (R171). -/
  | readEvents
  /-- SET_PARAMS (R172). -/
  | setParams
  /-- WINDOW_OPEN (R173). -/
  | windowOpen
  /-- WINDOW_CLOSE (R174). -/
  | windowClose
  /-- WINDOW_QUERY (R175). -/
  | windowQuery
  /-- MOVER_START (R176). -/
  | moverStart
  /-- MOVER_STOP (R177). -/
  | moverStop
  /-- MOVER_RESUME (R178). -/
  | moverResume
  /-- MOVER_ABORT (R179). -/
  | moverAbort
  /-- MOVER_CLEAR (R180). -/
  | moverClear
  /-- MOVER_QUERY (R181). -/
  | moverQuery
  /-- NODE_RESET (R182). -/
  | nodeReset
  /-- UNKNOWN_COMMAND (R162): an unknown command code, or an empty payload. -/
  | unknownCommand
  deriving DecidableEq, Repr

end Sys2Proof
end

