-- ==== Sys2Proof/Config.lean ====
section
/-! DEFINITION. What the manual fixes for every part (sizes), and the free values: constants with no
body, of which no proof can see what they are. The first argument of a free value is the State's free
counter, so that each use is a fresh value. -/

namespace Sys2Proof.Config

/-- Transit FIFO, 4 cells (R146). -/
def transitDepth : Nat := 4
/-- Receive Queue, 8 cells (R143). -/
def receiveDepth : Nat := 8
/-- Inbound Memory Queue, 4 operations (R91). -/
def inboundDepth : Nat := 4
/-- Request Queue, 8 cells (R111). -/
def requestDepth : Nat := 8
/-- Reply Queue, 8 cells (R114). -/
def replyDepth : Nat := 8
/-- A mover's memory queue, 2 operations (R122). -/
def moverQueueDepth : Nat := 2
/-- Staging buffers one mover may hold (R24, R106). -/
def moverBuffers : Nat := 4

/-- FREE VALUE (log 6): the bits of a byte that a failed or cut-off write left with their OLD contents;
the other bits hold the new ones ("old contents, new contents, or a mixture", R126). The second
argument is the card address. -/
opaque keptBits : Nat → Nat → Byte

/-- FREE VALUE (log 6): what such a byte held before, where the model does not know it. -/
opaque unknownByte : Nat → Nat → Byte

/-- FREE VALUE (log 11): whether the Event Unit takes the second of two occurrences of one step before
the first (R185, R190 leave the order open). -/
opaque secondFirst : Nat → Bool

/-- FREE VALUE (log 12): whether CLAIM_CHANGE is taken before the report of the CLAIM (R168, R191). -/
opaque claimChangeFirst : Nat → Bool

/-- FREE CONSTANT of the implementation (log 13): whether an attention repeat that SET_PARAMS gives
with the value it already has counts as changed, and so restarts a running repeat timer (R172, R194). -/
opaque sameRepeatRestarts : Bool

end Sys2Proof.Config
end

