-- ==== Sys2Proof/Machine/State.lean ====
section
/-! DEFINITION. The state of the part, block by block, as plain data, and its value after a hard reset. -/

namespace Sys2Proof.Machine

/-! ### Cells (chapter 8) -/

/-- The eight cell kinds (R133). -/
inductive Kind where
  | write | read | data | ack | nak | mgmt | reply | attn
  deriving DecidableEq, Repr

/-- The 14 header bytes before the header check (chapter 8, section 8.1). The kind stays a byte, since
a received cell may hold an unknown kind. -/
structure Header where
  dest : Byte
  source : Byte
  kind : Byte
  origin : Byte
  tag : Byte
  hops : Byte
  length : Byte
  flags : Byte
  ringAddr : Addr
  seq : Byte
  status : Byte
  deriving DecidableEq, Repr

/-- The reasons of a NAK (R136). -/
inductive NakReason where
  | noWindow | denied | range | format | corrupt | memory
  deriving DecidableEq, Repr

/-- The status codes of a REPLY (R165). -/
inductive Status where
  | ok | busy | notManager | badCommand | badArgument | wrongState | overlap
  deriving DecidableEq, Repr

/-- A place of the Receive Queue (R143); `good` is the payload check result. -/
structure RxCell where
  header : Header
  payload : List Byte
  good : Bool
  deriving DecidableEq, Repr

/-- The kinds a mover sends (R111). -/
inductive RequestKind where
  | write | read
  deriving DecidableEq, Repr

/-- A place of the Request Queue (R111). `buffer` is present for a WRITE. -/
structure RequestCell where
  kind : RequestKind
  mover : MoverId
  header : Header
  buffer : Option BufNo
  deriving DecidableEq, Repr

/-- The producers of the Reply Queue (R114). -/
inductive Producer where
  | inboundQueue | dispatcher | management | eventUnit
  deriving DecidableEq, Repr

/-- How a Reply Queue place carries its payload (R115). -/
inductive ReplyPayload where
  /-- ACK and NAK -/
  | none
  /-- DATA: the Responder buffer -/
  | buffer (b : BufNo)
  /-- REPLY and ATTN: the bytes themselves -/
  | bytes (bs : List Byte)
  deriving DecidableEq, Repr

/-- A place of the Reply Queue (R114). `isReset` marks the REPLY to NODE_RESET (R182). -/
structure ReplyCell where
  producer : Producer
  header : Header
  payload : ReplyPayload
  isReset : Bool
  deriving DecidableEq, Repr

/-- Where the cell on ring-out came from, with its queue's record (R148, R150). -/
inductive RingSource where
  | transit
  | request (c : RequestCell)
  | reply (c : ReplyCell)
  deriving DecidableEq, Repr

/-- The cell on ring-out (R112, R150): its bytes as sent, and whether it was begun before a reset point
that has passed since (R119, R150). -/
structure OnRing where
  source : RingSource
  frame : List Byte
  beforeReset : Bool
  deriving DecidableEq, Repr

/-- Ring-in's link states (R139). -/
inductive Link where
  | down | up
  deriving DecidableEq, Repr

/-- The Ring Port apart from the Receive Queue (R152, R139, R146, R149, R150). -/
structure Ring where
  ownSlot : Slot
  link : Link
  transit : List (List Byte)
  passCounter : Nat
  out : Option OnRing
  deriving DecidableEq, Repr

/-! ### Inbound service (chapter 5) -/

/-- The wait that the handling of the cell in hand has reached (R82). -/
inductive Wait where
  | nakPlace (reason : NakReason)
  | responderBuffer
  /-- `buffer`: the Responder's buffer of a READ -/
  | memoryPlace (buffer : Option BufNo)
  | moverPlace (owner : MoverId) (cardAddr ringAddr : Addr)
  | management
  deriving DecidableEq, Repr

/-- The Receive Queue (R143) and the Dispatcher (R82). The cell in hand keeps its place at the head of
the queue, so `hand` holds only the wait; it is absent when there is no cell in hand. -/
structure Inbound where
  queue : List RxCell
  hand : Option Wait
  deriving DecidableEq, Repr

/-- What an operation of the Inbound Memory Queue does (R91). -/
inductive InboundKind where
  | write (payload : List Byte) (ackReq : Bool)
  | read (buffer : BufNo)
  deriving DecidableEq, Repr

/-- The stages of such an operation (R91). `replying done`: it ended DONE, or with a failure. -/
inductive InboundStage where
  | queued
  | atPort
  | replying (done : Bool)
  deriving DecidableEq, Repr

/-- An operation of the Inbound Memory Queue (R91). -/
structure InboundOp where
  kind : InboundKind
  window : WindowNo
  cardAddr : Addr
  length : Nat
  requester : Byte
  origin : Byte
  tag : Byte
  ringAddr : Addr
  stage : InboundStage
  deriving DecidableEq, Repr

/-! ### Window Table (chapter 4) -/

/-- Window states (R67). -/
inductive WindowState where
  | closed | opened | draining
  deriving DecidableEq, Repr

/-- A window entry (R66). In `mask` bit n names slot n. -/
structure Window where
  state : WindowState
  ringBase : Addr
  sizeExp : Nat
  cardBase : Addr
  canRead : Bool
  canWrite : Bool
  mask : BitVec 32
  inFlight : Nat
  accepted : BitVec 32
  refused : BitVec 32
  deriving DecidableEq, Repr

/-! ### Staging Pool (chapter 6) -/

/-- The holders of a buffer that is not FREE (R106). -/
inductive Holder where
  | mover (m : MoverId)
  | responder
  deriving DecidableEq, Repr

/-- The stage of a held buffer (R106, R107), with its valid bytes (their number is the *length* field)
and the cell whose payload it holds. -/
inductive BufStage where
  | assigned
  | filled (data : List Byte)
  | queued (data : List Byte) (cell : Header)
  | sending (data : List Byte) (cell : Header)
  deriving DecidableEq, Repr

/-- A staging buffer (R106). -/
inductive Buffer where
  | free
  | held (by_ : Holder) (stage : BufStage)
  deriving DecidableEq, Repr

/-! ### Move elements and the List Fetcher (chapter 1) -/

/-- The fields that a PUSH or PULL element has beside those of every element (R8). -/
structure Xfer where
  slot : Slot
  byteCount : Nat
  localAddr : Addr
  remoteAddr : Addr
  deriving DecidableEq, Repr

/-- The operation of an element (R2), with ACK_REQ where it acts (R3). -/
inductive ElemOp where
  | push (x : Xfer) (ackReq : Bool)
  | pull (x : Xfer)
  | gate
  deriving DecidableEq, Repr

/-- An element record (R8). LINK is set exactly when the next element address is present. -/
structure Element where
  addr : Addr
  op : ElemOp
  next : Option Addr
  stopAfter : Bool
  notify : Bool
  deriving DecidableEq, Repr

/-- The nine fault kinds (chapter 2, section 2.7). -/
inductive FaultKind where
  | elementCheck | elementFormat | fetchMemory | dataMemory | noTaker | responseTimeout
  | remoteRefused | dataCorrupt | dataLength
  deriving DecidableEq, Repr

/-- The look-ahead slot (R15). -/
inductive LookAhead where
  | none
  | pending
  | held (e : Element)
  | failed (kind : FaultKind) (addr : Addr)
  deriving DecidableEq, Repr

/-- The fetch in flight (R11). -/
structure Fetch where
  mover : MoverId
  addr : Addr
  discarded : Bool
  deriving DecidableEq, Repr

/-- The List Fetcher (R11). The waiting set holds at most one address per mover. -/
structure Fetcher where
  inFlight : Option Fetch
  waiting0 : Option Addr
  waiting1 : Option Addr
  lastServed : MoverId
  deriving DecidableEq, Repr

/-! ### Movers (chapter 2) -/

/-- The cause of stopping (R20). -/
inductive StopCause where
  | element | fetch
  deriving DecidableEq, Repr

/-- Mover states (R21); the stopping cause is present in STOPPING only. -/
inductive MoverState where
  | idle | fetching | moving | gated
  | stopping (cause : StopCause)
  | faulting | halted | aborting
  deriving DecidableEq, Repr

/-- A mover's current element (R20): absent, an address alone, or an element record. -/
inductive Current where
  | absent
  | address (a : Addr)
  | element (e : Element)
  deriving DecidableEq, Repr

/-- The fault record (R36). -/
structure FaultRecord where
  kind : FaultKind
  elemAddr : Addr
  remote : Option Addr
  tag : Option TagNo
  nak : Option Byte
  further : Nat
  deriving DecidableEq, Repr

/-- Direction of a mover's memory operation (R122), with the fields only one direction has. -/
inductive MemOpKind where
  | read (buffer : BufNo) (tag : Option TagNo)
  | write (payload : List Byte)
  deriving DecidableEq, Repr

/-- Stages of a mover's memory operation (R122). -/
inductive MemStage where
  | queued | atPort | filled
  deriving DecidableEq, Repr

/-- An operation of a mover's memory queue (R122). -/
structure MemOp where
  kind : MemOpKind
  cardAddr : Addr
  length : Nat
  remote : Addr
  stage : MemStage
  deriving DecidableEq, Repr

/-- A mover (R20), its look-ahead slot (R15) and its memory queue (R122). -/
structure Mover where
  state : MoverState
  current : Current
  nextPiece : Option Nat
  issued : Nat
  settled : Nat
  piecesInFlight : Nat
  tagsHeld : Nat
  buffersHeld : Nat
  pendingWrites : Nat
  fault : Option FaultRecord
  resume : Option Addr
  completed : Half
  lookAhead : LookAhead
  queue : List MemOp
  deriving DecidableEq, Repr

/-! ### Tag Table (chapter 3) -/

/-- Request types (R47); a READ carries the local card address. -/
inductive RequestType where
  | read (localAddr : Addr)
  | ackedWrite
  deriving DecidableEq, Repr

/-- The fields of a tag from *origin* to *element address* (R47). -/
structure TagInfo where
  origin : MoverId
  type : RequestType
  slot : Slot
  ringAddr : Addr
  length : Nat
  elemAddr : Addr
  deriving DecidableEq, Repr

/-- A tag entry (R47, R48). In WAITING and ABANDONED the owner is the origin. -/
inductive Tag where
  | free
  | waiting (i : TagInfo) (deadline : Option Time)
  | abandoned (i : TagInfo) (deadline : Option Time)
  | quarantined (i : TagInfo) (until_ : Time)
  deriving DecidableEq, Repr

/-! ### Card Memory Port (chapter 7) -/

/-- The requesters in the arbiter's cyclic order (R121, R123). -/
inductive Requester where
  | inbound | fetch
  | mover (m : MoverId)
  deriving DecidableEq, Repr

/-- Direction of the operation in flight (R120), with the bytes a write drives onto the bus. -/
inductive PortDir where
  | read
  | write (payload : List Byte)
  deriving DecidableEq, Repr

/-- The operation in flight (R120). No requester is the NONE of R132. `serial` is how the bus marks
the operation (log 7). -/
structure PortOp where
  requester : Option Requester
  dir : PortDir
  cardAddr : Addr
  length : Nat
  timeoutEnd : Time
  serial : Nat
  deriving DecidableEq, Repr

/-- The Card Memory Port (R120). -/
structure Port where
  inFlight : Option PortOp
  lastServed : Requester
  nextSerial : Nat
  deriving DecidableEq, Repr

/-! ### Management Unit (chapter 9) -/

/-- Modes (R156). -/
inductive Mode where
  | ready | resetting
  deriving DecidableEq, Repr

/-- Claim state with the manager slot (R156). -/
inductive Claim where
  | unclaimed
  | claimed (manager : Slot)
  | lapsed (manager : Slot)
  deriving DecidableEq, Repr

/-- The stored reply (R156): payload and status. -/
structure StoredReply where
  payload : List Byte
  status : Status
  deriving DecidableEq, Repr

/-- The commands that may be deferred, with their target (R156, R163). -/
inductive DeferTarget where
  | windowClose (w : WindowNo)
  | moverAbort (m : MoverId)
  deriving DecidableEq, Repr

/-- The deferred context (R156). -/
structure Deferred where
  target : DeferTarget
  seq : Byte
  sender : Byte
  origin : Byte
  tag : Byte
  deriving DecidableEq, Repr

/-- A reply formed and waiting for a place in the Reply Queue (R156, R165); its hops are set when it is
placed (R151). -/
structure WaitingReply where
  dest : Byte
  origin : Byte
  tag : Byte
  seq : Byte
  status : Status
  payload : List Byte
  isReset : Bool
  deriving DecidableEq, Repr

/-- The parameter set (R166). -/
structure Params where
  responseTimeout : Nat
  memoryTimeout : Nat
  attentionRepeat : Nat
  claimLapse : Nat
  passCount : Nat
  hopLimit : Nat
  tagLimit0 : Nat
  tagLimit1 : Nat
  eventMask : Half
  deriving DecidableEq, Repr

/-- The Management Unit (R156). -/
structure Mgmt where
  mode : Mode
  claim : Claim
  lapseTimer : Option Time
  lastSeq : Option Byte
  stored : Option StoredReply
  deferred : Option Deferred
  replyLast : Option WaitingReply
  replyDeferred : Option WaitingReply
  params : Params
  deriving DecidableEq, Repr

/-! ### Event Unit (chapter 10) -/

/-- The sixteen events (R185). -/
inductive Event where
  | moverDone (m : MoverId)
  | moverHalted (m : MoverId)
  | moverNotify (m : MoverId)
  | moverGate (m : MoverId)
  | tagExpired | inboundRefused | strayResponse | cellError | cellDropped | memoryError
  | linkChange | claimChange
  deriving DecidableEq, Repr

/-- An event record (R185). -/
structure EventRecord where
  pending : Bool
  count : Nat
  deriving DecidableEq, Repr

/-- Attention states (R189). -/
inductive AttnState where
  | idle | sent
  deriving DecidableEq, Repr

/-- An ATTN cell formed and waiting (R192). -/
structure WaitingAttn where
  dest : Slot
  number : Half
  pendingSet : Half
  deriving DecidableEq, Repr

/-- The Event Unit (R185, R189). -/
structure EventUnit where
  records : Vector EventRecord 16
  state : AttnState
  number : Half
  timer : Option Time
  waiting : Option WaitingAttn
  deriving DecidableEq, Repr

/-! ### The whole part -/

/-- The state of the part. The last six fields are not the spec's: the contents of card memory as the
part's bus operations last showed them (log 5), the time (log 2), the index of the free values (log
27), the occurrences of the present step on their way to the Event Unit (log 11), and the queue of
commands. -/
structure State where
  ring : Ring
  inbound : Inbound
  imq : List InboundOp
  windows : Vector Window 16
  pool : Vector Buffer 8
  requestQueue : List RequestCell
  replyQueue : List ReplyCell
  fetcher : Fetcher
  mover0 : Mover
  mover1 : Mover
  tags : Vector Tag 16
  port : Port
  mgmt : Mgmt
  events : EventUnit
  cardMem : List Host.Cell
  now : Time
  free : Nat
  raised : List Event
  pending : List Instr
  deriving DecidableEq, Repr

/-- The ways in which the model stops with a fault. -/
inductive Fault where
  /-- Raised by CELL_RECEIVED alone: a whole cell is given on ring-in while ring-in is UP and shows not
  ready. R140 keeps upstream from it, and the manual gives the part no effect for it. Safe: the model
  stops where the manual is silent (log 8). -/
  | ringInOverrun
  deriving DecidableEq, Repr

/-- The ways in which the model refuses. -/
inductive Refusal where
  /-- The interface's refusal of a command without a meaning, raised by an arm of `exec`. No arm raises
  it now. Safe. -/
  | notModelled (mnemonic : String)
  deriving DecidableEq, Repr

/-! ### Reset values (R19, R46, R65, R81, R104, R118, R131, R154, R184, R196) -/

def Mover.reset : Mover :=
  { state := .idle, current := .absent, nextPiece := none, issued := 0, settled := 0
    piecesInFlight := 0, tagsHeld := 0, buffersHeld := 0, pendingWrites := 0, fault := none
    resume := none, completed := 0, lookAhead := .none, queue := [] }

def Window.reset : Window :=
  { state := .closed, ringBase := 0, sizeExp := 0, cardBase := 0, canRead := false
    canWrite := false, mask := 0, inFlight := 0, accepted := 0, refused := 0 }

def Fetcher.reset : Fetcher :=
  { inFlight := none, waiting0 := none, waiting1 := none, lastServed := .m1 }

def Params.default : Params :=
  { responseTimeout := 32, memoryTimeout := 4, attentionRepeat := 50, claimLapse := 0
    passCount := 4, hopLimit := 31, tagLimit0 := 8, tagLimit1 := 8, eventMask := 0xFFFF }

def Mgmt.reset : Mgmt :=
  { mode := .ready, claim := .unclaimed, lapseTimer := none, lastSeq := none, stored := none
    deferred := none, replyLast := none, replyDeferred := none, params := .default }

def EventUnit.reset : EventUnit :=
  { records := Vector.replicate 16 { pending := false, count := 0 }, state := .idle, number := 0
    timer := none, waiting := none }

/-- The Ring Port after a hard reset, `pins` being the slot-ID inputs as RESET is released (R154). -/
def Ring.reset (pins : Slot) : Ring :=
  { ownSlot := pins, link := .down, transit := [], passCounter := 0, out := none }

/-- The part right after a hard reset, with 0 on the slot-ID pins (log 4), at time 0 (log 2). -/
def State.reset : State :=
  { ring := .reset 0
    inbound := { queue := [], hand := none }
    imq := []
    windows := Vector.replicate 16 .reset
    pool := Vector.replicate 8 .free
    requestQueue := []
    replyQueue := []
    fetcher := .reset
    mover0 := .reset
    mover1 := .reset
    tags := Vector.replicate 16 .free
    port := { inFlight := none, lastServed := .mover .m1, nextSerial := 0 }
    mgmt := .reset
    events := .reset
    cardMem := []
    now := 0
    free := 0
    raised := []
    pending := [] }

end Sys2Proof.Machine
end

