-- ==== Sys2Proof/Machine/Operands.lean ====
section
/-! DEFINITION. The byte formats of the part: little-endian fields, the check code, cell headers and
frames, move elements and their pieces, the codes of named values, command codes and arguments. -/

namespace Sys2Proof.Machine

/-! ### Little-endian fields (00_scope.md, Conventions) -/

def le16 (x : Half) : List Byte := [x.setWidth 8, (x >>> 8).setWidth 8]

def le32 (x : BitVec 32) : List Byte :=
  [x.setWidth 8, (x >>> 8).setWidth 8, (x >>> 16).setWidth 8, (x >>> 24).setWidth 8]

/-- The byte at offset `i`. -/
def byteAt (bs : List Byte) (i : Nat) : Byte := bs.getD i 0

/-- The 2-byte field at offset `i`. -/
def halfAt (bs : List Byte) (i : Nat) : Half := byteAt bs (i + 1) ++ byteAt bs i

/-- The 4-byte field at offset `i`. -/
def wordAt (bs : List Byte) (i : Nat) : BitVec 32 :=
  (byteAt bs (i + 3) ++ byteAt bs (i + 2)) ++ (byteAt bs (i + 1) ++ byteAt bs i)

/-- A count as a byte of a reply. -/
def byteOf (n : Nat) : Byte := BitVec.ofNat 8 n

/-! ### The check code (R137) -/

/-- One shift of the register: the bit shifted out of the top decides whether 1021h is combined. -/
def checkShift (r : Half) : Half := if r.msb then (r <<< 1) ^^^ 0x1021#16 else r <<< 1

/-- One byte: combined into the upper eight bits, then eight shifts. -/
def checkByte (r : Half) (b : Byte) : Half :=
  Nat.repeat checkShift 8 (r ^^^ (b ++ 0#8))

/-- The check code of a sequence of bytes (R137). -/
def checkCode (bs : List Byte) : Half := bs.foldl checkByte 0xFFFF#16

/-! ### Codes of named values -/

/-- Kind codes (chapter 8, section 8.1). -/
def Kind.code : Kind → Byte
  | .write => 0x01 | .read => 0x02 | .data => 0x03 | .ack => 0x04
  | .nak => 0x05 | .mgmt => 0x06 | .reply => 0x07 | .attn => 0x08

def Kind.all : List Kind := [.write, .read, .data, .ack, .nak, .mgmt, .reply, .attn]

/-- The kind that a header's kind byte names; none for an unknown kind. -/
def Kind.ofByte (b : Byte) : Option Kind := Kind.all.find? (fun k => k.code == b)

/-- Kinds that carry a payload (R133). -/
def Kind.carriesPayload : Kind → Bool
  | .write | .data | .mgmt | .reply | .attn => true
  | .read | .ack | .nak => false

/-- NAK reason codes (R136). -/
def NakReason.code : NakReason → Byte
  | .noWindow => 0x01 | .denied => 0x02 | .range => 0x03
  | .format => 0x04 | .corrupt => 0x05 | .memory => 0x06

/-- Status codes (R165). -/
def Status.code : Status → Byte
  | .ok => 0x00 | .busy => 0x01 | .notManager => 0x02 | .badCommand => 0x03
  | .badArgument => 0x04 | .wrongState => 0x05 | .overlap => 0x06

/-- Fault kind codes (chapter 9, MOVER_QUERY). -/
def FaultKind.code : FaultKind → Byte
  | .elementCheck => 0x01 | .elementFormat => 0x02 | .fetchMemory => 0x03
  | .dataMemory => 0x04 | .noTaker => 0x05 | .responseTimeout => 0x06
  | .remoteRefused => 0x07 | .dataCorrupt => 0x08 | .dataLength => 0x09

/-- Mover state codes (R170). -/
def MoverState.code : MoverState → Byte
  | .idle => 0x00 | .fetching => 0x01 | .moving => 0x02 | .gated => 0x03
  | .stopping _ => 0x04 | .faulting => 0x05 | .halted => 0x06 | .aborting => 0x07

/-- Stopping cause codes (chapter 9, MOVER_QUERY). -/
def MoverState.causeCode : MoverState → Byte
  | .stopping .element => 0x01
  | .stopping .fetch => 0x02
  | _ => 0x00

/-- Window state codes (R175). -/
def WindowState.code : WindowState → Byte
  | .closed => 0x00 | .opened => 0x01 | .draining => 0x02

/-- Event numbers (R185). -/
def Event.number : Event → Fin 16
  | .moverDone .m0 => 0 | .moverDone .m1 => 1
  | .moverHalted .m0 => 2 | .moverHalted .m1 => 3
  | .moverNotify .m0 => 4 | .moverNotify .m1 => 5
  | .moverGate .m0 => 6 | .moverGate .m1 => 7
  | .tagExpired => 8 | .inboundRefused => 9 | .strayResponse => 10 | .cellError => 11
  | .cellDropped => 12 | .memoryError => 13 | .linkChange => 14 | .claimChange => 15

/-- The origin byte of a mover's cells (chapter 8, section 8.1). -/
def moverByte : MoverId → Byte
  | .m0 => 0
  | .m1 => 1

/-- The mover that an origin byte or a mover number names. -/
def moverOf (b : Byte) : Option MoverId :=
  if b = 0 then some .m0 else if b = 1 then some .m1 else none

/-- A slot as a header byte. -/
def slotByte (s : Slot) : Byte := s.setWidth 8

/-- The slot that a byte names, when it is 0–31. -/
def slotOf (b : Byte) : Option Slot := if b.toNat < 32 then some (b.setWidth 5) else none

/-- The tag that a tag byte names, when it is 0–15. -/
def tagOf (b : Byte) : Option TagNo := if h : b.toNat < 16 then some ⟨b.toNat, h⟩ else none

/-- The tag byte of a tag; 0FFh marks an untracked cell (R135). -/
def tagByte : Option TagNo → Byte
  | some t => byteOf t.val
  | none => 0xFF

/-- The window that an index byte names, when it is 0–15. -/
def windowOf (b : Byte) : Option WindowNo := if h : b.toNat < 16 then some ⟨b.toNat, h⟩ else none

/-! ### Cell headers and frames (R133, R138) -/

/-- ACK_REQ, the one flag of a cell (chapter 8, section 8.1). -/
def ackReqFlag : Byte := 0x01

def Header.ackReq (h : Header) : Bool := (h.flags &&& ackReqFlag) ≠ 0

/-- The kind of a header, when it is one of the eight. -/
def Header.kind? (h : Header) : Option Kind := Kind.ofByte h.kind

/-- Header bytes 0–13. -/
def Header.bytes (h : Header) : List Byte :=
  [h.dest, h.source, h.kind, h.origin, h.tag, h.hops, h.length, h.flags]
    ++ le32 h.ringAddr ++ [h.seq, h.status]

/-- The header fields of a frame's first 14 bytes. -/
def Header.ofBytes (bs : List Byte) : Header :=
  { dest := byteAt bs 0, source := byteAt bs 1, kind := byteAt bs 2, origin := byteAt bs 3
    tag := byteAt bs 4, hops := byteAt bs 5, length := byteAt bs 6, flags := byteAt bs 7
    ringAddr := wordAt bs 8, seq := byteAt bs 12, status := byteAt bs 13 }

/-- The 16 bytes of a header with its check (R138). -/
def Header.withCheck (h : Header) : List Byte := h.bytes ++ le16 (checkCode h.bytes)

/-- The bytes of a cell the part sends: header, header check, payload, and a payload check when the
payload is not empty (R138). -/
def cellFrame (h : Header) (payload : List Byte) : List Byte :=
  h.withCheck ++ payload ++ (if payload = [] then [] else le16 (checkCode payload))

/-- The payload bytes that a header announces: *length* for the kinds that carry one, else 0 (R133). -/
def Header.payloadLength (h : Header) : Nat :=
  match h.kind? with
  | some k => if k.carriesPayload then h.length.toNat else 0
  | none => 0

/-- The extent of a cell by its header; none when a payload-carrying kind states more than 64 (R133). -/
def Header.extent (h : Header) : Option Nat :=
  let n := h.payloadLength
  if n > 64 then none else some (if n = 0 then 16 else 18 + n)

/-- A received frame is damaged (R141). -/
def damaged (frame : List Byte) (invalidChar : Bool) : Bool :=
  frame.length < 16
    || checkCode (frame.take 14) ≠ halfAt frame 14
    || (Header.ofBytes frame).extent ≠ some frame.length
    || invalidChar

/-- The payload of a frame. -/
def framePayload (frame : List Byte) : List Byte :=
  (frame.drop 16).take (Header.ofBytes frame).payloadLength

/-- The cell as the Receive Queue holds it, with its payload check result (R143). -/
def rxCellOf (frame : List Byte) : RxCell :=
  let p := framePayload frame
  { header := .ofBytes frame, payload := p
    good := p = [] || checkCode p = halfAt frame (16 + p.length) }

/-- The frame as it is forwarded: hops less 1, the header check formed again, the rest unchanged (R146). -/
def forwardedFrame (frame : List Byte) : List Byte :=
  let h := Header.ofBytes frame
  Header.withCheck { h with hops := h.hops - 1 } ++ frame.drop 16

/-! ### Move elements (R1–R8) -/

/-- What a fetch that is not discarded hands to its mover (R8). -/
inductive FetchOutcome where
  | valid (e : Element)
  | failed (kind : FaultKind)
  deriving DecidableEq, Repr

def linkFlag : Byte := 0x01
def stopAfterFlag : Byte := 0x02
def notifyFlag : Byte := 0x04
def elemAckReqFlag : Byte := 0x08

/-- A flag of a flags byte. -/
def flagSet (flags f : Byte) : Bool := (flags &&& f) ≠ 0

/-- The fields that a PUSH or PULL uses (R4). -/
def xferOf (bs : List Byte) : Xfer :=
  { slot := (byteAt bs 2).setWidth 5, byteCount := (wordAt bs 4).toNat
    localAddr := wordAt bs 8, remoteAddr := wordAt bs 12 }

/-- Check 3 of R7: byte count, remote slot and local range of a PUSH or PULL. -/
def xferValid (own : Slot) (bs : List Byte) : Bool :=
  let n := (wordAt bs 4).toNat
  1 ≤ n && n ≤ 65536
    && (byteAt bs 2).toNat ≤ 31 && byteAt bs 2 ≠ slotByte own
    && (wordAt bs 8).toNat + n ≤ 0x100000000

/-- The operation of the element, when its code is known (R2, R3). -/
def elemOpOf (bs : List Byte) : Option ElemOp :=
  let op := byteAt bs 0
  if op = 0x01 then some (.push (xferOf bs) (flagSet (byteAt bs 1) elemAckReqFlag))
  else if op = 0x02 then some (.pull (xferOf bs))
  else if op = 0x03 then some .gate
  else none

/-- Whether check 3 applies to an operation. -/
def ElemOp.moves : ElemOp → Bool
  | .push _ _ | .pull _ => true
  | .gate => false

/-- Validation of the 24 bytes read at `addr`, by the ordered checks of R7. -/
def validateElement (own : Slot) (addr : Addr) (bs : List Byte) : FetchOutcome :=
  let flags := byteAt bs 1
  let next := wordAt bs 16
  if checkCode (bs.take 20) ≠ halfAt bs 20 then .failed .elementCheck
  else match elemOpOf bs with
    | none => .failed .elementFormat
    | some op =>
      if op.moves && !xferValid own bs then .failed .elementFormat
      else if flagSet flags linkFlag && next.toNat % 8 ≠ 0 then .failed .elementFormat
      else .valid
        { addr := addr, op := op
          next := if flagSet flags linkFlag then some next else none
          stopAfter := flagSet flags stopAfterFlag
          notify := flagSet flags notifyFlag }

/-- The PUSH or PULL fields of an element, absent for GATE (R8). -/
def Element.xfer (e : Element) : Option Xfer :=
  match e.op with
  | .push x _ => some x
  | .pull x => some x
  | .gate => none

/-- The element that becomes current when this one completes, unless it is stopped (R3). -/
def Element.chainsTo (e : Element) : Option Addr := if e.stopAfter then none else e.next

/-! ### Pieces (R9, R10) -/

/-- A piece record (R10). -/
structure Piece where
  number : Nat
  remote : Addr
  cardAddr : Addr
  length : Nat
  last : Bool
  deriving DecidableEq, Repr

/-- Length of the first piece: up to the next multiple of 64 of the remote address (R9). -/
def Xfer.firstLength (x : Xfer) : Nat := min x.byteCount (64 - x.remoteAddr.toNat % 64)

/-- Number of pieces (R9). -/
def Xfer.pieceCount (x : Xfer) : Nat := 1 + (x.byteCount - x.firstLength + 63) / 64

/-- Sum of the lengths of the pieces before piece `n` (R9), counted from 1. -/
def Xfer.pieceOffset (x : Xfer) (n : Nat) : Nat := if n ≤ 1 then 0 else x.firstLength + 64 * (n - 2)

/-- Length of piece `n` (R9). -/
def Xfer.pieceLength (x : Xfer) (n : Nat) : Nat :=
  if n ≤ 1 then x.firstLength else min 64 (x.byteCount - x.pieceOffset n)

/-- Piece `n` of an element; both addresses advance in step, the remote one modulo 2^32 (R10). -/
def Xfer.piece (x : Xfer) (n : Nat) : Piece :=
  { number := n
    remote := x.remoteAddr + BitVec.ofNat 32 (x.pieceOffset n)
    cardAddr := x.localAddr + BitVec.ofNat 32 (x.pieceOffset n)
    length := x.pieceLength n
    last := n = x.pieceCount }

/-! ### Windows (R66) -/

/-- Window size, 4096 × 2^k bytes. -/
def windowSize (k : Nat) : Nat := 4096 * 2 ^ k

/-- The first ring address beyond the window. -/
def Window.ringEnd (w : Window) : Nat := w.ringBase.toNat + windowSize w.sizeExp

/-- The ring range contains `a`. -/
def Window.contains (w : Window) (a : Addr) : Bool :=
  w.ringBase.toNat ≤ a.toNat && a.toNat < w.ringEnd

/-- The rights byte (chapter 9, WINDOW_OPEN). -/
def Window.rightsByte (w : Window) : Byte :=
  (if w.canRead then 0x01#8 else 0#8) ||| (if w.canWrite then 0x02#8 else 0#8)

/-! ### Management commands (R164) -/

/-- The fifteen known commands. -/
inductive Command where
  | claim | release | readStatus | readEvents | setParams | windowOpen | windowClose | windowQuery
  | moverStart | moverStop | moverResume | moverAbort | moverClear | moverQuery | nodeReset
  deriving DecidableEq, Repr

def Command.code : Command → Byte
  | .claim => 0x01 | .release => 0x02 | .readStatus => 0x03 | .readEvents => 0x04
  | .setParams => 0x05 | .windowOpen => 0x06 | .windowClose => 0x07 | .windowQuery => 0x08
  | .moverStart => 0x09 | .moverStop => 0x0A | .moverResume => 0x0B | .moverAbort => 0x0C
  | .moverClear => 0x0D | .moverQuery => 0x0E | .nodeReset => 0x0F

def Command.all : List Command :=
  [.claim, .release, .readStatus, .readEvents, .setParams, .windowOpen, .windowClose, .windowQuery,
   .moverStart, .moverStop, .moverResume, .moverAbort, .moverClear, .moverQuery, .nodeReset]

/-- Request length, the code counted (R164). -/
def Command.requestLength : Command → Nat
  | .claim | .release | .readStatus | .readEvents | .nodeReset => 1
  | .setParams => 13
  | .windowOpen => 16
  | .windowClose | .windowQuery => 2
  | .moverStart => 6
  | .moverStop | .moverResume | .moverAbort | .moverClear | .moverQuery => 2

/-- The command of an MGMT payload; none for an unknown code or an empty payload (R164). -/
def commandOf : List Byte → Option Command
  | [] => none
  | b :: _ => Command.all.find? (fun c => c.code == b)

/-- The parameter set as SET_PARAMS returns it, in the field order of the request (R172). -/
def Params.bytes (p : Params) : List Byte :=
  [byteOf p.responseTimeout, byteOf p.memoryTimeout, byteOf p.attentionRepeat, byteOf p.claimLapse,
   byteOf p.passCount, byteOf p.hopLimit, byteOf p.tagLimit0, byteOf p.tagLimit1]
    ++ le16 p.eventMask

/-- The tag limit of a mover (R50). -/
def Params.tagLimit (p : Params) : MoverId → Nat
  | .m0 => p.tagLimit0
  | .m1 => p.tagLimit1

end Sys2Proof.Machine
end

