-- ==== Sys2Proof/Machine/Flags.lean ====
section
/-! DEFINITION. The Event Unit: event records, the attention condition, attention and its repeats. -/

namespace Sys2Proof.Machine

/-- A block reports an occurrence; the Event Unit takes the occurrences of a step at its end. -/
def State.raise (s : State) (e : Event) : State := { s with raised := s.raised ++ [e] }

/-- One more occurrence in a record, saturating at 255 (R185). -/
def EventRecord.bump (r : EventRecord) : EventRecord :=
  { pending := true, count := min 255 (r.count + 1) }

/-- The pending set: 2^n is present when event n is pending (R192). -/
def EventUnit.pendingSet (u : EventUnit) : Half :=
  (List.finRange 16).foldl
    (fun acc n => if u.records[n].pending then acc ||| (1#16 <<< n.val) else acc) 0#16

/-- At least one event of `mask` is pending (R189). -/
def EventUnit.unmaskedPending (u : EventUnit) (mask : Half) : Bool :=
  (List.finRange 16).any (fun n => u.records[n].pending && mask.getLsbD n.val)

/-- The manager slot, present in CLAIMED and LAPSED (R156, R158). -/
def Claim.manager : Claim → Option Slot
  | .unclaimed => none
  | .claimed m => some m
  | .lapsed m => some m

/-- The expiry of a repeat timer started now; absent with an attention repeat of 0 (R193). -/
def State.repeatExpiry (s : State) : Option Time :=
  if s.mgmt.params.attentionRepeat = 0 then none
  else some (s.now + 1000 * s.mgmt.params.attentionRepeat)

/-- The attention condition (R189). -/
def State.attentionCondition (s : State) : Bool :=
  s.events.state = .idle && s.mgmt.claim.manager.isSome
    && s.events.unmaskedPending s.mgmt.params.eventMask

/-- Raising attention for manager `m` (R190, R192, R193). -/
def State.raiseAttention (s : State) (m : Slot) : State :=
  let n := s.events.number + 1
  { s with events :=
      { s.events with
        state := .sent, number := n, timer := s.repeatExpiry
        waiting := some { dest := m, number := n, pendingSet := s.events.pendingSet } } }

/-- The test of the attention condition (R190). -/
def State.testAttention (s : State) : State :=
  match s.mgmt.claim.manager with
  | some m => if s.attentionCondition then s.raiseAttention m else s
  | none => s

/-- The Event Unit takes one occurrence: it is recorded, and the condition is tested (R185, R190). -/
def State.takeOccurrence (s : State) (e : Event) : State :=
  let n := e.number
  ({ s with events :=
      { s.events with records := s.events.records.set n (s.events.records[n].bump) } }).testAttention

/-- The attention state returns to IDLE: the timer stops and a waiting ATTN is given up (R191). -/
def State.attentionToIdle (s : State) : State :=
  { s with events := { s.events with state := .idle, timer := none, waiting := none } }

/-- The mover that raises an event, for events 0–7. -/
def Event.mover? : Event → Option MoverId
  | .moverDone m | .moverHalted m | .moverNotify m | .moverGate m => some m
  | _ => none

/-- Two occurrences that one mover raises in the order R30 gives. -/
def Event.sameMover (a b : Event) : Bool := a.mover?.isSome && a.mover? = b.mover?

/-- Two occurrences of one step, the second taken first if `swap` (R185: the order does not change the
records; R190: it can change the pending set of the ATTN). -/
def State.takeTwo (s : State) (swap : Bool) (a b : Event) : State :=
  if swap then (s.takeOccurrence b).takeOccurrence a else (s.takeOccurrence a).takeOccurrence b

/-- The Event Unit takes the occurrences of the step. Between two of different blocks the order is a
free value (log 11). -/
def State.takeRaised (s : State) : State :=
  match s.raised with
  | [] => s
  | [a] => State.takeOccurrence { s with raised := [] } a
  | a :: b :: rest =>
    let t :=
      if a.sameMover b then State.takeTwo { s with raised := [] } false a b
      else State.takeTwo { s with raised := [], free := s.free + 1 } (Config.secondFirst s.free) a b
    rest.foldl State.takeOccurrence t

/-- READ_EVENTS at the Event Unit (R187): the returned counts are subtracted from the records, and the
pending flag of every record whose count reaches 0 is cleared. -/
def EventRecord.subtract (r returned : EventRecord) : EventRecord :=
  let c := r.count - returned.count
  { pending := r.pending && c ≠ 0, count := c }

/-- The snapshot as READ_EVENTS returns it: pending flag and count of each event in order (R171). -/
def EventUnit.snapshotBytes (u : EventUnit) : List Byte :=
  u.records.toList.flatMap (fun r => [if r.pending then 1#8 else 0#8, byteOf r.count])

/-- Snapshot taken, counts subtracted, attention to IDLE, condition tested (R187, R191). -/
def State.clearEvents (s : State) : State :=
  let t : State :=
    { s with events := { s.events with records := s.events.records.map (fun r => r.subtract r) } }
  t.attentionToIdle.testAttention

/-- The report of a CLAIM executed with status OK (R191). -/
def State.claimReport (s : State) : State := s.attentionToIdle.testAttention

end Sys2Proof.Machine
end

