-- ==== Sys2Proof/Machine/Ops.lean ====
section
/-! DEFINITION. The operations that several commands share: accessors, staging buffers, tags, the two
outbound queues, the List Fetcher's waiting set, the Management Unit's deferred completion, and the
mover's settling, completion, faults, withdrawal and drain. -/

namespace Sys2Proof.Machine

/-! ### Accessors -/

def State.mover (s : State) : MoverId → Mover
  | .m0 => s.mover0
  | .m1 => s.mover1

def State.setMover (s : State) (m : MoverId) (v : Mover) : State :=
  match m with
  | .m0 => { s with mover0 := v }
  | .m1 => { s with mover1 := v }

def State.setTag (s : State) (t : TagNo) (v : Tag) : State := { s with tags := s.tags.set t v }

def State.setBuffer (s : State) (b : BufNo) (v : Buffer) : State := { s with pool := s.pool.set b v }

def State.setWindow (s : State) (w : WindowNo) (v : Window) : State :=
  { s with windows := s.windows.set w v }

/-- The own slot as a header byte. -/
def State.ownByte (s : State) : Byte := slotByte s.ring.ownSlot

/-- The hop limit as a header byte, read when a header is formed (R151). -/
def State.hops (s : State) : Byte := byteOf s.mgmt.params.hopLimit

/-- The response timeout in microseconds (R52). -/
def State.responseTime (s : State) : Nat := 16 * s.mgmt.params.responseTimeout

/-- The clock when an expiry at `t` is taken: the time has then reached `t` (log 3). -/
def State.reach (s : State) (t : Time) : State := { s with now := max s.now t }

/-! ### Staging buffers (R106–R109) -/

/-- The buffer whose payload a cell on ring-out carries. -/
def RingSource.buffer : RingSource → Option BufNo
  | .transit => none
  | .request c => c.buffer
  | .reply c => match c.payload with
    | .buffer b => some b
    | _ => none

/-- A buffer that a reset point freed while its cell was on ring-out is passed over by every grant until
the cell finishes (R108, R119). -/
def State.passedOver (s : State) (b : BufNo) : Bool :=
  match s.ring.out with
  | some o => o.beforeReset && o.source.buffer = some b
  | none => false

/-- A buffer that a grant may take. -/
def State.grantable (s : State) (b : BufNo) : Bool := s.pool[b] = .free && !s.passedOver b

/-- The buffer a mover's request is given: the lowest-numbered free one of 0–5 (R108). -/
def State.moverBuffer (s : State) : Option BufNo := [0, 1, 2, 3, 4, 5].find? s.grantable

/-- The buffer the Responder takes: 6, then 7, then the lowest-numbered free one of 0–5 (R97). -/
def State.responderBuffer (s : State) : Option BufNo := [6, 7, 0, 1, 2, 3, 4, 5].find? s.grantable

/-- A buffer goes to FREE; a mover that held it counts one less (R109). -/
def State.freeBuffer (s : State) (b : BufNo) : State :=
  match s.pool[b] with
  | .held (.mover m) _ =>
    let v := s.mover m
    (s.setBuffer b .free).setMover m { v with buffersHeld := v.buffersHeld - 1 }
  | _ => s.setBuffer b .free

/-- The contents of a buffer that holds data (R106). -/
def Buffer.data : Buffer → List Byte
  | .held _ (.filled d) => d
  | .held _ (.queued d _) => d
  | .held _ (.sending d _) => d
  | _ => []

/-- A new stage for a held buffer (R107); a FREE one stays FREE. -/
def State.stageBuffer (s : State) (b : BufNo) (stage : BufStage) : State :=
  match s.pool[b] with
  | .held h _ => s.setBuffer b (.held h stage)
  | .free => s

/-! ### Tags (R47–R49) -/

/-- The fields of a tag that is not FREE. -/
def Tag.info : Tag → Option TagInfo
  | .free => none
  | .waiting i _ | .abandoned i _ | .quarantined i _ => some i

/-- The owner of a tag: a tag has one exactly when it is WAITING or ABANDONED (R48). -/
def Tag.owner : Tag → Option MoverId
  | .waiting i _ | .abandoned i _ => some i.origin
  | .free | .quarantined _ _ => none

/-- Number of WAITING and ABANDONED tags of a mover, which its tag limit bounds (R48, R49). -/
def State.tagsOwned (s : State) (m : MoverId) : Nat :=
  s.tags.toList.countP (fun t => t.owner = some m)

/-- The tag a mover's request is granted: the lowest-numbered FREE one, within the mover's tag limit (R49). -/
def State.grantTag (s : State) (m : MoverId) : Option TagNo :=
  if s.tagsOwned m < s.mgmt.params.tagLimit m then
    (List.finRange 16).find? (fun t => s.tags[t] = .free)
  else none

/-- An owned tag leaves WAITING or ABANDONED: its owner counts one less. -/
def State.dropTag (s : State) (t : TagNo) (dst : Tag) : State :=
  match s.tags[t].owner with
  | some m =>
    let v := s.mover m
    (s.setTag t dst).setMover m { v with tagsHeld := v.tagsHeld - 1 }
  | none => s.setTag t dst

/-- A tag goes to FREE, with its owner's count. -/
def State.freeTag (s : State) (t : TagNo) : State := s.dropTag t .free

/-- The tag of a cell not begun, or of a read not sent on, at a withdrawal: it is WAITING without a deadline,
and goes to FREE (R63). -/
def State.freeUnsent (s : State) (t : TagNo) : State :=
  match s.tags[t] with
  | .waiting _ none => s.freeTag t
  | _ => s

/-- A piece of the mover's has settled or is given up: one less in flight (R29). -/
def State.dropPiece (s : State) (m : MoverId) : State :=
  let v := s.mover m
  s.setMover m { v with piecesInFlight := v.piecesInFlight - 1 }

/-! ### Outbound queues (R111–R115) -/

def State.replyRoom (s : State) : Bool := s.replyQueue.length < Config.replyDepth

def State.requestRoom (s : State) : Bool := s.requestQueue.length < Config.requestDepth

/-- A cell joins the tail of the Reply Queue (R114). -/
def State.placeReply (s : State) (c : ReplyCell) : State :=
  { s with replyQueue := s.replyQueue ++ [c] }

/-- A cell joins the tail of the Request Queue (R111). -/
def State.placeRequest (s : State) (c : RequestCell) : State :=
  { s with requestQueue := s.requestQueue ++ [c] }

/-- The pass counter becomes 0 when both local queues are empty (R149). -/
def State.passCounterRule (s : State) : State :=
  if s.requestQueue = [] ∧ s.replyQueue = [] then { s with ring := { s.ring with passCounter := 0 } }
  else s

/-! ### The List Fetcher (R11–R14) -/

def Fetcher.waiting (f : Fetcher) : MoverId → Option Addr
  | .m0 => f.waiting0
  | .m1 => f.waiting1

def Fetcher.setWaiting (f : Fetcher) (m : MoverId) (a : Option Addr) : Fetcher :=
  match m with
  | .m0 => { f with waiting0 := a }
  | .m1 => { f with waiting1 := a }

/-- A mover places a request in the waiting set (R11). -/
def State.requestFetch (s : State) (m : MoverId) (a : Addr) : State :=
  { s with fetcher := s.fetcher.setWaiting m (some a) }

/-- The mover has a fetch of its own, waiting or in flight, discarded or not (R11). -/
def Fetcher.owns (f : Fetcher) (m : MoverId) : Bool :=
  (f.waiting m).isSome || f.inFlight.any (fun x => x.mover = m)

/-- Withdrawal of the mover's fetch (R14): a waiting request leaves the set, a fetch in flight gets its
discarded mark. -/
def Fetcher.withdraw (f : Fetcher) (m : MoverId) : Fetcher :=
  let g := f.setWaiting m none
  { g with inFlight := g.inFlight.map (fun x => if x.mover = m then { x with discarded := true } else x) }

def State.withdrawFetch (s : State) (m : MoverId) : State :=
  { s with fetcher := s.fetcher.withdraw m }

/-- The mover whose waiting request is taken next (R12). -/
def Fetcher.nextMover (f : Fetcher) : Option MoverId :=
  match f.waiting0, f.waiting1 with
  | none, none => none
  | some _, none => some .m0
  | none, some _ => some .m1
  | some _, some _ => match f.lastServed with
    | .m0 => some .m1
    | .m1 => some .m0

/-- A fetch starts when none is in flight and the waiting set is not empty (R12). -/
def Fetcher.start (f : Fetcher) : Fetcher :=
  match f.inFlight, f.nextMover with
  | none, some m =>
    match f.waiting m with
    | some a =>
      { f.setWaiting m none with
        inFlight := some { mover := m, addr := a, discarded := false }, lastServed := m }
    | none => f
  | _, _ => f

/-! ### Deferred completion (R163) -/

/-- The payload of a reply: command code, status, and the results of an OK (R165). -/
def replyPayload (code : Byte) (st : Status) (results : List Byte) : List Byte :=
  code :: st.code :: (if st = .ok then results else [])

/-- The code of a command that may be deferred. -/
def DeferTarget.code : DeferTarget → Byte
  | .windowClose _ => Command.windowClose.code
  | .moverAbort _ => Command.moverAbort.code

/-- The block concerned reports completion of a deferred command: the OK reply is formed from the
context, stored, and waits (R163). -/
def State.reportCompletion (s : State) (what : DeferTarget) : State :=
  match s.mgmt.deferred with
  | some d =>
    if d.target = what then
      let payload := replyPayload d.target.code .ok []
      { s with mgmt :=
          { s.mgmt with
            deferred := none
            stored := some { payload := payload, status := .ok }
            replyDeferred := some
              { dest := d.sender, origin := d.origin, tag := d.tag, seq := d.seq, status := .ok
                payload := payload, isReset := false } } }
    else s
  | none => s

/-! ### The mover: ends of lists (R30, R36, R39) -/

/-- The mover's record with no list being carried out: no current element (log 19). -/
def Mover.rest (v : Mover) (st : MoverState) (resume : Option Addr) : Mover :=
  { v with
    state := st, current := .absent, nextPiece := none, issued := 0, settled := 0, resume := resume }

/-- The list ends in IDLE with MOVERn_DONE. -/
def State.endList (s : State) (m : MoverId) (resume : Option Addr) : State :=
  (s.setMover m ((s.mover m).rest .idle resume)).raise (.moverDone m)

/-- The mover enters HALTED and raises MOVERn_HALTED; there is no resume address (section 2.4). -/
def State.haltMover (s : State) (m : MoverId) : State :=
  (s.setMover m ((s.mover m).rest .halted none)).raise (.moverHalted m)

/-- A fault in the record (R36): the first one is written, a later one only counted. -/
def Mover.noteFault (v : Mover) (f : FaultRecord) : Mover :=
  match v.fault with
  | none => { v with fault := some { f with further := 0 } }
  | some r => { v with fault := some { r with further := min 255 (r.further + 1) } }

/-- The address of the current element (R36); 0 when there is none, which no run reaches (log 26). -/
def Mover.currentAddr (v : Mover) : Addr :=
  match v.current with
  | .absent => 0
  | .address a => a
  | .element e => e.addr

/-- The PUSH or PULL fields of the current element. -/
def Mover.xfer (v : Mover) : Option Xfer :=
  match v.current with
  | .element e => e.xfer
  | _ => none

/-- The mover owns a staging buffer (R39). -/
def State.holdsBuffer (s : State) (m : MoverId) : Bool :=
  s.pool.toList.any (fun b => match b with
    | .held (.mover n) _ => n = m
    | _ => false)

/-- The mover is quiet (R39). -/
def State.quiet (s : State) (m : MoverId) : Bool :=
  s.tagsOwned m = 0 && (s.mover m).queue = [] && (s.mover m).pendingWrites = 0
    && s.requestQueue.all (fun c => c.mover ≠ m) && !s.holdsBuffer m && !s.fetcher.owns m

/-- A draining mover that is quiet goes on: FAULTING to HALTED, ABORTING to IDLE with the end of the
deferred abort (R39, R163). -/
def State.checkQuiet (s : State) (m : MoverId) : State :=
  if s.quiet m then
    match (s.mover m).state with
    | .faulting => s.haltMover m
    | .aborting => (s.setMover m ((s.mover m).rest .idle none)).reportCompletion (.moverAbort m)
    | _ => s
  else s

/-! ### The mover: withdrawal and faults (R18, R37, R38, R63, R113) -/

/-- The look-ahead is discarded, and a pending fetch withdrawn (R18). -/
def State.discardLookAhead (s : State) (m : MoverId) : State :=
  let v := s.mover m
  let t := s.setMover m { v with lookAhead := .none }
  match v.lookAhead with
  | .pending => t.withdrawFetch m
  | _ => t

/-- What becomes of one withdrawn cell: a WRITE frees its buffer, a tracked cell its tag, and its piece
is given up (R113). -/
def State.withdrawCell (s : State) (c : RequestCell) : State :=
  let s := match c.buffer with
    | some b => s.freeBuffer b
    | none => s
  let s := match tagOf c.header.tag with
    | some t => s.freeUnsent t
    | none => s
  s.dropPiece c.mover

/-- Withdrawal from the Request Queue, as one event (R113). -/
def State.withdrawCells (s : State) (m : MoverId) : State :=
  let mine := s.requestQueue.filter (fun c => c.mover = m)
  let t := { s with requestQueue := s.requestQueue.filter (fun c => c.mover ≠ m) }
  (mine.foldl State.withdrawCell t).passCounterRule

/-- The tag of a tracked last piece whose read is still in the memory queue (R38, R63). -/
def MemOp.heldTag (o : MemOp) : Option TagNo :=
  match o.kind with
  | .read _ t => t
  | .write _ => none

def MemOp.withoutTag (o : MemOp) : MemOp :=
  match o.kind with
  | .read b _ => { o with kind := .read b none }
  | .write _ => o

/-- The head of the memory queue is a PUSH read waiting for a Request Queue place: it is given up (R38). -/
def State.giveUpFilled (s : State) (m : MoverId) : State :=
  let v := s.mover m
  match v.queue with
  | o :: rest =>
    match o.kind, o.stage with
    | .read b _, .filled => ((s.setMover m { v with queue := rest }).freeBuffer b).dropPiece m
    | _, _ => s
  | [] => s

/-- The memory queue at a withdrawal: tags of tracked reads are freed, a FILLED read is given up, and the
other operations are left to finish (R38, R63). -/
def State.withdrawMemory (s : State) (m : MoverId) : State :=
  let v := s.mover m
  let held := v.queue.filterMap MemOp.heldTag
  let t := s.setMover m { v with queue := v.queue.map MemOp.withoutTag }
  (held.foldl State.freeUnsent t).giveUpFilled m

/-- A WAITING tag of the mover goes to ABANDONED, keeping its deadline (R63). -/
def Tag.abandon (m : MoverId) : Tag → Tag
  | .waiting i d => if i.origin = m then .abandoned i d else .waiting i d
  | t => t

def State.abandonTags (s : State) (m : MoverId) : State :=
  { s with tags := s.tags.map (Tag.abandon m) }

/-- The withdrawal of R38. After the queued cells and the reads in the memory queue have given up their
tags, a WAITING tag that is left has its cell on ring-out or sent. -/
def State.withdraw (s : State) (m : MoverId) : State :=
  let s := s.withdrawCells m
  let s := s.withdrawMemory m
  let s := s.abandonTags m
  let s := s.discardLookAhead m
  s.withdrawFetch m

/-- Whether a mover in this state is finishing pieces: MOVING, or STOPPING with cause ELEMENT. -/
def MoverState.carrying : MoverState → Bool
  | .moving | .stopping .element => true
  | _ => false

/-- Whether a mover in this state drains: FAULTING or ABORTING. -/
def MoverState.draining : MoverState → Bool
  | .faulting | .aborting => true
  | _ => false

/-- A mover takes a fault (R36, R37). In MOVING, or STOPPING with cause ELEMENT, it enters FAULTING,
withdraws and drains; in FETCHING it halts directly; while draining the fault is only recorded. -/
def State.takeFault (s : State) (m : MoverId) (f : FaultRecord) : State :=
  let v := s.mover m
  match v.state with
  | .moving | .stopping .element =>
    let s := s.setMover m { v.noteFault f with state := .faulting, resume := none }
    (s.withdraw m).checkQuiet m
  | .fetching => (s.setMover m (v.noteFault f)).haltMover m
  | .faulting | .aborting => s.setMover m (v.noteFault f)
  | .idle | .gated | .halted | .stopping .fetch => s

/-- A fault that comes through a tag (R36). -/
def tagFault (k : FaultKind) (t : TagNo) (i : TagInfo) (nak : Option Byte) : FaultRecord :=
  { kind := k, elemAddr := i.elemAddr, remote := some i.ringAddr, tag := some t, nak := nak, further := 0 }

/-- An element fault (R36, R8). -/
def elementFault (k : FaultKind) (a : Addr) : FaultRecord :=
  { kind := k, elemAddr := a, remote := none, tag := none, nak := none, further := 0 }

/-! ### The mover: elements (R15–R17, R23, R30, R31, R33) -/

/-- An element becomes current (R23, R30): a PUSH or PULL enters MOVING, and asks for its look-ahead when
it chains (R15); a GATE enters GATED and raises MOVERn_GATE. -/
def State.becomeCurrent (s : State) (m : MoverId) (e : Element) : State :=
  let v := s.mover m
  match e.op with
  | .push _ _ | .pull _ =>
    let v := { v with state := .moving, current := .element e, nextPiece := some 1
                      issued := 0, settled := 0 }
    match e.chainsTo with
    | some a => (s.setMover m { v with lookAhead := .pending }).requestFetch m a
    | none => s.setMover m v
  | .gate =>
    (s.setMover m { v with state := .gated, current := .element e, nextPiece := none
                           issued := 0, settled := 0 }).raise (.moverGate m)

/-- The mover enters FETCHING for the element at `a`. -/
def State.enterFetching (s : State) (m : MoverId) (a : Addr) : State :=
  let v := s.mover m
  s.setMover m { v with
    state := .fetching, current := .address a, nextPiece := none, issued := 0, settled := 0 }

/-- Chaining to the element at `a`, by the look-ahead slot, which goes to NONE (R16, R17, R30). -/
def State.chain (s : State) (m : MoverId) (a : Addr) : State :=
  let v := s.mover m
  let t := s.setMover m { v with lookAhead := .none }
  match v.lookAhead with
  | .held e => t.becomeCurrent m e
  | .pending => t.enterFetching m a
  | .failed k b => (t.setMover m ((t.mover m).noteFault (elementFault k b))).haltMover m
  | .none => (t.requestFetch m a).enterFetching m a

/-- What every completion does first (R30): the count, and MOVERn_NOTIFY. -/
def State.countElement (s : State) (m : MoverId) (e : Element) : State :=
  let v := s.mover m
  let t := s.setMover m { v with completed := v.completed + 1 }
  if e.notify then t.raise (.moverNotify m) else t

/-- The current element `e` completes in MOVING, or in GATED by MOVER_RESUME (R30, R31). -/
def State.completeElement (s : State) (m : MoverId) (e : Element) : State :=
  let t := s.countElement m e
  match e.chainsTo with
  | some a => t.chain m a
  | none => t.endList m e.next

/-- The current element completes in STOPPING (R33): the mover does not chain, and waits for a discarded
look-ahead fetch of its own. Its resume address is set at once (log 23), and the completed element stays the
current one until that fetch ends, which the spec leaves open (log 30). -/
def State.completeStopped (s : State) (m : MoverId) (e : Element) : State :=
  let t := s.countElement m e
  if t.fetcher.owns m then t.setMover m { t.mover m with resume := e.next }
  else t.endList m e.next

/-- A piece of `n` bytes settles (R29, R30, R33). While the mover drains the element does not complete. -/
def State.settlePiece (s : State) (m : MoverId) (n : Nat) : State :=
  let v := s.mover m
  let v := { v with settled := v.settled + n, piecesInFlight := v.piecesInFlight - 1 }
  let t := s.setMover m v
  match v.current with
  | .element e =>
    match e.xfer with
    | some x =>
      if v.settled = x.byteCount then
        match v.state with
        | .moving => t.completeElement m e
        | .stopping .element => t.completeStopped m e
        | _ => t
      else t
    | none => t
  | _ => t

/-- The mover is told that a discarded fetch of its own has ended (R13, R33, R34, R39). -/
def State.fetchDropped (s : State) (m : MoverId) : State :=
  let v := s.mover m
  match v.state with
  | .stopping .fetch => s.endList m (some v.currentAddr)
  | .stopping .element =>
    match v.xfer with
    | some x => if v.settled = x.byteCount then s.endList m v.resume else s
    | none => s
  | .faulting | .aborting => s.checkQuiet m
  | _ => s

/-! ### The end of a step -/

/-- What every step that changes the fetcher or raises occurrences ends with: the next fetch starts
(R12), and the Event Unit takes the occurrences (R185). -/
def State.finish (s : State) : State :=
  State.takeRaised { s with fetcher := s.fetcher.start }

end Sys2Proof.Machine
end

