-- ==== Sys2Proof/Machine/CardMemory.lean ====
section
/-! DEFINITION. Card memory as the part's bus operations last wrote it or found it (log 5), and the Card
Memory Port: presenting, arbitration, and the end of an operation (chapter 7). -/

namespace Sys2Proof.Machine

/-! ### The record of card memory: a list of bytes, addresses strictly rising -/

/-- The byte known at an address; an unlisted address has no known value. -/
def memGet : List Host.Cell → Nat → Option Byte
  | [], _ => none
  | (a, b) :: rest, x => if x = a then some b else memGet rest x

/-- One byte set, keeping the order. -/
def memSet : List Host.Cell → Nat → Byte → List Host.Cell
  | [], x, v => [(x, v)]
  | (a, b) :: rest, x, v =>
    if x < a then (x, v) :: (a, b) :: rest
    else if x = a then (a, v) :: rest
    else (a, b) :: memSet rest x v

/-- Consecutive bytes set, from address `x`. -/
def memWrite : List Host.Cell → Nat → List Byte → List Host.Cell
  | mem, _, [] => mem
  | mem, x, v :: vs => memWrite (memSet mem x v) (x + 1) vs

/-- The canonical form: addresses strictly rising. No entry can equal what an unlisted address reads as,
since that is no value. -/
def memWf : List Host.Cell → Bool
  | [] => true
  | [_] => true
  | (a, _) :: (b, y) :: rest => a < b && memWf ((b, y) :: rest)

/-- What a write that failed or was cut off leaves at one address: old bits, new bits or a mixture
(R126, R127, R131; log 6). -/
def leftByte (k : Nat) (mem : List Host.Cell) (x : Nat) (new : Byte) : Byte :=
  let old := (memGet mem x).getD (Config.unknownByte k x)
  (old &&& Config.keptBits k x) ||| (new &&& ~~~Config.keptBits k x)

/-- What such a write leaves in its range. -/
def memLeave (k : Nat) : List Host.Cell → Nat → List Byte → List Host.Cell
  | mem, _, [] => mem
  | mem, x, v :: vs => memLeave k (memSet mem x (leftByte k mem x v)) (x + 1) vs

/-! ### Presenting and the arbiter (R121, R123, R125) -/

/-- What a requester presents to a free port (R121): direction, card address and length. -/
def State.presented (s : State) : Requester → Option (PortDir × Addr × Nat)
  | .inbound =>
    match s.imq with
    | o :: _ =>
      match o.stage, o.kind with
      | .atPort, .write p _ => some (.write p, o.cardAddr, o.length)
      | .atPort, .read _ => some (.read, o.cardAddr, o.length)
      | _, _ => none
    | [] => none
  | .fetch => s.fetcher.inFlight.map (fun f => (.read, f.addr, 24))
  | .mover m =>
    match (s.mover m).queue with
    | o :: _ =>
      match o.stage, o.kind with
      | .queued, .write p => some (.write p, o.cardAddr, o.length)
      | .queued, .read _ _ => some (.read, o.cardAddr, o.length)
      | _, _ => none
    | [] => none

/-- The cyclic order INBOUND, FETCH, MOVER0, MOVER1, starting with the requester after the one last
served (R123). -/
def Requester.cycleAfter : Requester → List Requester
  | .inbound => [.fetch, .mover .m0, .mover .m1, .inbound]
  | .fetch => [.mover .m0, .mover .m1, .inbound, .fetch]
  | .mover .m0 => [.mover .m1, .inbound, .fetch, .mover .m0]
  | .mover .m1 => [.inbound, .fetch, .mover .m0, .mover .m1]

/-- The requester that is granted next (R123). -/
def State.nextGrant (s : State) : Option Requester :=
  s.port.lastServed.cycleAfter.find? (fun r => (s.presented r).isSome)

/-- The range crosses the top of card memory (R125). -/
def crossesTop (a : Addr) (n : Nat) : Bool := a.toNat + n > 0x100000000

/-- How an operation ends (section 7.4). -/
inductive MemResult where
  | done (bytes : List Byte)
  | error | timeout | notIssued
  deriving DecidableEq, Repr

/-- The last three results are the failures. -/
def MemResult.failed : MemResult → Bool
  | .done _ => false
  | _ => true

/-! ### Results at the Inbound Memory Queue (R72, R77, R92–R96) -/

/-- The operation that reaches the head goes AT_PORT (R92). -/
def presentHead : List InboundOp → List InboundOp
  | o :: rest => (match o.stage with
    | .queued => { o with stage := .atPort }
    | _ => o) :: rest
  | [] => []

/-- The in-flight count of a window decreases; a DRAINING window whose count reaches 0 goes to CLOSED and
the end of its close is reported (R72, R77). -/
def State.leaveWindow (s : State) (w : WindowNo) : State :=
  let v := s.windows[w]
  let n := v.inFlight - 1
  if v.state = .draining ∧ n = 0 then
    (s.setWindow w { v with inFlight := n, state := .closed }).reportCompletion (.windowClose w)
  else s.setWindow w { v with inFlight := n }

/-- The head leaves the Inbound Memory Queue, and the next operation reaches the head (R72, R92). -/
def State.leaveInboundQueue (s : State) : State :=
  match s.imq with
  | o :: rest => State.leaveWindow { s with imq := presentHead rest } o.window
  | [] => s

/-- The header of a cell that answers a request (R99). -/
def State.answerHeader (s : State) (k : Kind) (dest origin tag : Byte) (ringAddr : Addr)
    (length : Byte) (reason : Byte) : Header :=
  { dest := dest, source := s.ownByte, kind := k.code, origin := origin, tag := tag, hops := s.hops
    length := length, flags := 0, ringAddr := ringAddr, seq := reason, status := 0 }

/-- The cell a REPLYING operation places: ACK or DATA after DONE, NAK MEMORY after a failure (R93–R95). -/
def State.inboundReply (s : State) (o : InboundOp) (ok : Bool) : ReplyCell :=
  let h := fun (k : Kind) (n reason : Byte) =>
    s.answerHeader k o.requester o.origin o.tag o.ringAddr n reason
  match ok, o.kind with
  | true, .write _ _ =>
    { producer := .inboundQueue, header := h .ack 0 0, payload := .none, isReset := false }
  | true, .read b =>
    { producer := .inboundQueue, header := h .data (byteOf o.length) 0, payload := .buffer b
      isReset := false }
  | false, _ =>
    { producer := .inboundQueue, header := h .nak 0 NakReason.memory.code, payload := .none
      isReset := false }

/-- A REPLYING head places its reply when a place is free, and leaves at that moment; a DATA's buffer goes
from FILLED to QUEUED (R93–R96, R115). -/
def State.inboundReplyStep (s : State) : State :=
  match s.imq with
  | o :: _ =>
    match o.stage with
    | .replying ok =>
      if s.replyRoom then
        let c := s.inboundReply o ok
        let t := s.placeReply c
        let t := match c.payload with
          | .buffer b => t.stageBuffer b (.queued (t.pool[b].data) c.header)
          | _ => t
        t.leaveInboundQueue
      else s
    | _ => s
  | [] => s

/-- The result of the head's memory operation (R93, R94, R95). -/
def State.inboundResult (s : State) (r : MemResult) : State :=
  match s.imq with
  | o :: rest =>
    let replying := fun (ok : Bool) => { s with imq := { o with stage := .replying ok } :: rest }
    match o.kind, r with
    | .write _ false, .done _ => s.leaveInboundQueue
    | .write _ true, .done _ => (replying true).inboundReplyStep
    | .read b, .done bytes => ((replying true).stageBuffer b (.filled bytes)).inboundReplyStep
    | .read b, _ => ((replying false).freeBuffer b).inboundReplyStep
    | .write _ _, _ => (replying false).inboundReplyStep
  | [] => s

/-! ### Results at the List Fetcher (R13, R16, R23) -/

/-- The mover takes the outcome of a fetch that was not discarded (R16, R23). -/
def State.takeOutcome (s : State) (m : MoverId) (addr : Addr) (o : FetchOutcome) : State :=
  let v := s.mover m
  match v.state, o with
  | .fetching, .valid e => s.becomeCurrent m e
  | .fetching, .failed k => s.takeFault m (elementFault k addr)
  | .moving, .valid e => s.setMover m { v with lookAhead := .held e }
  | .moving, .failed k => s.setMover m { v with lookAhead := .failed k addr }
  | _, _ => s

/-- The fetch in flight ends (R13). -/
def State.fetchResult (s : State) (r : MemResult) : State :=
  match s.fetcher.inFlight with
  | some f =>
    let t := { s with fetcher := { s.fetcher with inFlight := none } }
    if f.discarded then t.fetchDropped f.mover
    else
      match r with
      | .done bytes => t.takeOutcome f.mover f.addr (validateElement t.ring.ownSlot f.addr bytes)
      | _ => t.takeOutcome f.mover f.addr (.failed .fetchMemory)
  | none => s

/-! ### Results at a mover's memory queue (R27, R28, R129) -/

/-- The WRITE cell of a PUSH piece, formed from its read operation (R27, R111). -/
def State.writeCell (s : State) (m : MoverId) (slot : Slot) (o : MemOp) (b : BufNo)
    (t : Option TagNo) : RequestCell :=
  { kind := .write, mover := m, buffer := some b
    header :=
      { dest := slotByte slot, source := s.ownByte, kind := Kind.write.code, origin := moverByte m
        tag := tagByte t, hops := s.hops, length := byteOf o.length
        flags := if t.isSome then ackReqFlag else 0
        ringAddr := o.remote, seq := 0, status := 0 } }

/-- The FILLED read at the head places its WRITE cell and leaves the memory queue; its buffer goes to
QUEUED (R27, R107). -/
def State.placeWrite (s : State) (m : MoverId) (o : MemOp) (b : BufNo) (t : Option TagNo) : State :=
  let v := s.mover m
  match v.xfer with
  | some x =>
    let c := s.writeCell m x.slot o b t
    ((s.setMover m { v with queue := v.queue.tail }).stageBuffer b
      (.queued (s.pool[b].data) c.header)).placeRequest c
  | none => s

/-- DATA_MEMORY, with the piece's remote address and the tag of a tracked last piece (R27, R28, R36). -/
def dataMemory (v : Mover) (o : MemOp) : FaultRecord :=
  { kind := .dataMemory, elemAddr := v.currentAddr, remote := some o.remote, tag := o.heldTag
    nak := none, further := 0 }

/-- The head of a mover's memory queue ends (R129). -/
def State.moverResult (s : State) (m : MoverId) (r : MemResult) : State :=
  let v := s.mover m
  match v.queue with
  | o :: rest =>
    let left := s.setMover m { v with queue := rest }
    match o.kind, r with
    | .read b t, .done bytes =>
      if v.state.carrying then
        let filled := s.stageBuffer b (.filled bytes)
        if s.requestRoom then filled.placeWrite m o b t
        else filled.setMover m { v with queue := { o with stage := .filled } :: rest }
      else ((left.freeBuffer b).dropPiece m).checkQuiet m
    | .read b t, _ =>
      let freed := (left.freeBuffer b).dropPiece m
      if v.state.carrying then
        let freed := match t with
          | some t => freed.freeTag t
          | none => freed
        freed.takeFault m (dataMemory v o)
      else freed.checkQuiet m
    | .write _, .done _ => (left.settlePiece m o.length).checkQuiet m
    | .write _, _ => ((left.dropPiece m).takeFault m (dataMemory v o)).checkQuiet m
  | [] => s

/-! ### The end of an operation (R126–R128) -/

/-- The port hands the result to the requester, and raises MEMORY_ERROR for a failure unless the
requester is NONE (R128, R132). -/
def State.handResult (s : State) (who : Option Requester) (r : MemResult) : State :=
  match who with
  | none => s
  | some q =>
    let s := if r.failed then s.raise .memoryError else s
    match q with
    | .inbound => s.inboundResult r
    | .fetch => s.fetchResult r
    | .mover m => s.moverResult m r

/-- What the end of the operation shows of card memory (R126, R127): a read answered DONE the bytes it
found, a write answered DONE its bytes, a failed write a mixture. -/
def State.memoryEffect (s : State) (p : PortOp) (r : MemResult) : State :=
  match p.dir, r with
  | .read, .done bytes => { s with cardMem := memWrite s.cardMem p.cardAddr.toNat bytes }
  | .read, _ => s
  | .write bs, .done _ => { s with cardMem := memWrite s.cardMem p.cardAddr.toNat bs }
  | .write bs, _ =>
    { s with cardMem := memLeave s.free s.cardMem p.cardAddr.toNat bs, free := s.free + 1 }

/-- The operation in flight ends with a result (R126, R127). -/
def State.endOperation (s : State) (p : PortOp) (r : MemResult) : State :=
  let t := s.memoryEffect p r
  State.handResult { t with port := { t.port with inFlight := none } } p.requester r

/-- The result that an answer of the bus gives the operation it is for; none when it is no answer of that
operation, which delivers exactly *length* bytes on a read answered DONE (R126; log 29). -/
def PortOp.resultOf (p : PortOp) : BusAnswer → Option MemResult
  | .error => some .error
  | .done bytes =>
    match p.dir with
    | .read => if bytes.length = p.length then some (.done bytes) else none
    | .write _ => some (.done [])

/-! ### The commands -/

/-- The head of a granted mover's memory queue goes AT_PORT (R122). -/
def markAtPort : List MemOp → List MemOp
  | o :: rest => { o with stage := .atPort } :: rest
  | [] => []

def State.markGranted (s : State) (r : Requester) : State :=
  match r with
  | .mover m =>
    let v := s.mover m
    s.setMover m { v with queue := markAtPort v.queue }
  | _ => s

/-- MEMORY_GRANT (R123–R125, R127): with no operation in flight, the next presenting requester in the
cyclic order is granted; its operation is issued, or ends NOT_ISSUED. -/
def grantMemory (s : State) : State :=
  match s.port.inFlight, s.nextGrant with
  | none, some r =>
    match s.presented r with
    | some (dir, a, n) =>
      let s := s.markGranted r
      if crossesTop a n then
        State.handResult { s with port := { s.port with lastServed := r } } (some r) .notIssued
      else
        { s with port :=
            { inFlight := some
                { requester := some r, dir := dir, cardAddr := a, length := n
                  timeoutEnd := s.now + s.mgmt.params.memoryTimeout, serial := s.port.nextSerial }
              lastServed := r, nextSerial := s.port.nextSerial + 1 } }
    | none => s
  | _, _ => s

def execMemoryGrant (s : State) : Host.Outcome State Fault Refusal := .next (grantMemory s).finish

/-- MEMORY_ANSWER (R126, R127): an answer is taken only when its operation is the one in flight. -/
def answerMemory (serial : Nat) (answer : BusAnswer) (s : State) : State :=
  match s.port.inFlight with
  | some p =>
    if p.serial = serial then
      match p.resultOf answer with
      | some r => s.endOperation p r
      | none => s
    else s
  | none => s

def execMemoryAnswer (serial : Nat) (answer : BusAnswer) (s : State) :
    Host.Outcome State Fault Refusal := .next (answerMemory serial answer s).finish

/-- MEMORY_TIMEOUT (R127): the time reaches the timeout end with no answer taken. -/
def timeoutMemory (s : State) : State :=
  match s.port.inFlight with
  | some p => (s.reach p.timeoutEnd).endOperation p .timeout
  | none => s

def execMemoryTimeout (s : State) : Host.Outcome State Fault Refusal := .next (timeoutMemory s).finish

end Sys2Proof.Machine
end

