-- ==== Sys2Proof/Machine/Movers.lean ====
section
/-! DEFINITION. The movers' own steps: issuing pieces and placing the WRITE cell of a filled read
(R24–R27), and the timers of the Tag Table (R59–R61). -/

namespace Sys2Proof.Machine

/-- The next piece of the mover's current element, while it issues pieces and one is left (section 2.3). -/
def Mover.duePiece (v : Mover) : Option Piece :=
  if v.state.carrying then
    match v.xfer, v.nextPiece with
    | some x, some n => if n ≤ x.pieceCount then some (x.piece n) else none
    | _, _ => none
  else none

/-- The current element is a PUSH, with ACK_REQ set or clear. -/
def Mover.pushAckReq (v : Mover) : Option Bool :=
  match v.current with
  | .element e => match e.op with
    | .push _ a => some a
    | _ => none
  | _ => none

/-- The current element is a PULL. -/
def Mover.pulling (v : Mover) : Bool :=
  match v.current with
  | .element e => match e.op with
    | .pull _ => true
    | _ => false
  | _ => false

/-- The piece that an untracked PUSH issue would take now (R24). -/
def Mover.untrackedPush (v : Mover) : Option Piece :=
  match v.pushAckReq, v.duePiece with
  | some ack, some p => if ack && p.last then none else some p
  | _, _ => none

/-- The tracked last piece, when it is due (R25). -/
def Mover.trackedPush (v : Mover) : Option Piece :=
  match v.pushAckReq, v.duePiece with
  | some ack, some p => if ack && p.last then some p else none
  | _, _ => none

/-- The PULL piece that is due (R26). -/
def Mover.duePull (v : Mover) : Option Piece := if v.pulling then v.duePiece else none

/-- The counts that every issue changes (R24–R26, R29). -/
def Mover.countIssue (v : Mover) (p : Piece) : Mover :=
  { v with issued := v.issued + p.length, piecesInFlight := v.piecesInFlight + 1
           nextPiece := some (p.number + 1) }

/-- A free place in the mover's memory queue (R122). -/
def Mover.queueRoom (v : Mover) : Bool := v.queue.length < Config.moverQueueDepth

/-- A PUSH piece takes its buffer and places its read (R24, R25). -/
def State.placeRead (s : State) (m : MoverId) (p : Piece) (b : BufNo) (t : Option TagNo) : State :=
  let v := (s.mover m).countIssue p
  (s.setBuffer b (.held (.mover m) .assigned)).setMover m
    { v with
      buffersHeld := v.buffersHeld + 1
      queue := v.queue ++
        [{ kind := .read b t, cardAddr := p.cardAddr, length := p.length, remote := p.remote
           stage := .queued }] }

/-- A mover takes a tag for a piece (R49): it becomes WAITING without a deadline, and *tags held*
increases. -/
def State.takeTag (s : State) (m : MoverId) (t : TagNo) (type : RequestType) (slot : Slot)
    (p : Piece) : State :=
  let v := s.mover m
  (s.setTag t (.waiting
    { origin := m, type := type, slot := slot, ringAddr := p.remote, length := p.length
      elemAddr := v.currentAddr } none)).setMover m { v with tagsHeld := v.tagsHeld + 1 }

/-- The buffer at hand for a mover's PUSH piece (R24): the mover holds fewer than 4, and one is free. -/
def State.bufferAtHand (s : State) (m : MoverId) : Option BufNo :=
  if (s.mover m).buffersHeld < Config.moverBuffers then s.moverBuffer else none

/-- PUSH_PIECE_ISSUE (R24). -/
def issuePush (m : MoverId) (s : State) : State :=
  match (s.mover m).untrackedPush, s.bufferAtHand m with
  | some p, some b => if (s.mover m).queueRoom then s.placeRead m p b none else s
  | _, _ => s

def execPushPieceIssue (m : MoverId) (s : State) : Host.Outcome State Fault Refusal :=
  .next (issuePush m s)

/-- TRACKED_PIECE_ISSUE (R25). -/
def issueTracked (m : MoverId) (s : State) : State :=
  match (s.mover m).trackedPush, (s.mover m).xfer, s.bufferAtHand m, s.grantTag m with
  | some p, some x, some b, some t =>
    if (s.mover m).queueRoom then (s.takeTag m t .ackedWrite x.slot p).placeRead m p b (some t) else s
  | _, _, _, _ => s

def execTrackedPieceIssue (m : MoverId) (s : State) : Host.Outcome State Fault Refusal :=
  .next (issueTracked m s)

/-- The READ cell of a PULL piece (R26, R111). -/
def State.readCell (s : State) (m : MoverId) (slot : Slot) (p : Piece) (t : TagNo) : RequestCell :=
  { kind := .read, mover := m, buffer := none
    header :=
      { dest := slotByte slot, source := s.ownByte, kind := Kind.read.code, origin := moverByte m
        tag := tagByte (some t), hops := s.hops, length := byteOf p.length, flags := 0
        ringAddr := p.remote, seq := 0, status := 0 } }

/-- PULL_PIECE_ISSUE (R26). -/
def issuePull (m : MoverId) (s : State) : State :=
  match (s.mover m).duePull, (s.mover m).xfer, s.grantTag m with
  | some p, some x, some t =>
    if s.requestRoom then
      let u := s.takeTag m t (.read p.cardAddr) x.slot p
      (u.setMover m ((u.mover m).countIssue p)).placeRequest (s.readCell m x.slot p t)
    else s
  | _, _, _ => s

def execPullPieceIssue (m : MoverId) (s : State) : Host.Outcome State Fault Refusal :=
  .next (issuePull m s)

/-- PUSH_WRITE_PLACED (R27): the FILLED read at the head places its WRITE cell when a place is free. -/
def placeFilled (m : MoverId) (s : State) : State :=
  match (s.mover m).queue with
  | o :: _ =>
    match o.kind, o.stage with
    | .read b t, .filled =>
      if s.requestRoom && (s.mover m).state.carrying then s.placeWrite m o b t else s
    | _, _ => s
  | [] => s

def execPushWritePlaced (m : MoverId) (s : State) : Host.Outcome State Fault Refusal :=
  .next (placeFilled m s)

/-! ### Timers of the Tag Table -/

/-- TAG_DEADLINE_EXPIRY (R59, R60): the tag goes to QUARANTINED, and TAG_EXPIRED is raised; the owner of a
WAITING tag takes RESPONSE_TIMEOUT, that of an ABANDONED one is released. -/
def expireTag (t : TagNo) (s : State) : State :=
  match s.tags[t] with
  | .waiting i (some d) =>
    let s := s.reach d
    let s := (s.dropTag t (.quarantined i (s.now + s.responseTime))).raise .tagExpired
    (s.dropPiece i.origin).takeFault i.origin (tagFault .responseTimeout t i none)
  | .abandoned i (some d) =>
    let s := s.reach d
    let s := (s.dropTag t (.quarantined i (s.now + s.responseTime))).raise .tagExpired
    (s.dropPiece i.origin).checkQuiet i.origin
  | _ => s

def execTagDeadlineExpiry (t : TagNo) (s : State) : Host.Outcome State Fault Refusal :=
  .next (expireTag t s).finish

/-- TAG_QUARANTINE_END (R61). -/
def endQuarantine (t : TagNo) (s : State) : State :=
  match s.tags[t] with
  | .quarantined _ e => (s.reach e).setTag t .free
  | _ => s

def execTagQuarantineEnd (t : TagNo) (s : State) : Host.Outcome State Fault Refusal :=
  .next (endQuarantine t s)

end Sys2Proof.Machine
end

