-- ==== Sys2Proof/Machine/Inbound.lean ====
section
/-! DEFINITION. Inbound service: the window lookup (chapter 4), the Dispatcher and the Responder
(chapter 5), and what the Tag Table does with responses (chapter 3). -/

namespace Sys2Proof.Machine

/-! ### The lookup (R68–R71) -/

/-- The verdict of a lookup (R69). -/
inductive Verdict where
  | accepted (w : WindowNo) (cardAddr : Addr)
  | refused (reason : NakReason) (matched : Option WindowNo)
  deriving DecidableEq, Repr

/-- The OPEN entry whose ring range contains `a` (R69, check 2). -/
def State.windowAt (s : State) (a : Addr) : Option WindowNo :=
  (List.finRange 16).find? (fun w => s.windows[w].state = .opened && s.windows[w].contains a)

/-- The right that a kind needs (R69, check 3). -/
def Window.grants (w : Window) (isWrite : Bool) : Bool := if isWrite then w.canWrite else w.canRead

/-- The ordered checks of R69, and the card address of R71. -/
def State.lookup (s : State) (source : Byte) (isWrite : Bool) (a : Addr) (len : Nat) : Verdict :=
  if len = 0 ∨ len > 64 then .refused .format none
  else match s.windowAt a with
    | none => .refused .noWindow none
    | some i =>
      let w := s.windows[i]
      if !w.mask.getLsbD source.toNat || !w.grants isWrite then .refused .denied (some i)
      else if a.toNat + len > w.ringEnd then .refused .range (some i)
      else .accepted i (w.cardBase + (a - w.ringBase))

/-- The lookup of a WRITE or READ cell on its header (R68). -/
def State.lookupCell (s : State) (h : Header) : Verdict :=
  s.lookup h.source (h.kind? = some .write) h.ringAddr h.length.toNat

/-! ### The end of a handling (R82, R90) -/

/-- Handling ends: the cell in hand leaves the Receive Queue (R82). -/
def State.endHandling (s : State) : State :=
  { s with inbound := { queue := s.inbound.queue.tail, hand := none } }

def State.wait (s : State) (w : Wait) : State := { s with inbound := { s.inbound with hand := some w } }

/-- The NAK that the Dispatcher forms from the header of the cell in hand (R90, R99). -/
def State.nakCell (s : State) (h : Header) (reason : NakReason) : ReplyCell :=
  { producer := .dispatcher, payload := .none, isReset := false
    header := s.answerHeader .nak h.source h.origin h.tag h.ringAddr 0 reason.code }

/-- The NAK is placed when a place is free, and handling ends; else the Dispatcher waits (R90). -/
def State.nak (s : State) (h : Header) (reason : NakReason) : State :=
  if s.replyRoom then (s.placeReply (s.nakCell h reason)).endHandling else s.wait (.nakPlace reason)

/-- The refused count of the matched window (R70). -/
def State.countRefused (s : State) : Option WindowNo → State
  | some i => s.setWindow i { s.windows[i] with refused := s.windows[i].refused + 1 }
  | none => s

/-- A refusal by the lookup, at verdict or at admission (R70). -/
def State.refuse (s : State) (h : Header) (reason : NakReason) (matched : Option WindowNo) : State :=
  ((s.countRefused matched).raise .inboundRefused).nak h reason

/-! ### Admission (R68, R71, R84, R85, R91, R92) -/

/-- The operation that an admitted cell becomes (R91). -/
def inboundOpOf (c : RxCell) (buffer : Option BufNo) (w : WindowNo) (cardAddr : Addr) : InboundOp :=
  { kind := match buffer with
      | some b => .read b
      | none => .write c.payload c.header.ackReq
    window := w, cardAddr := cardAddr, length := c.header.length.toNat, requester := c.header.source
    origin := c.header.origin, tag := c.header.tag, ringAddr := c.header.ringAddr, stage := .queued }

/-- An operation joins the Inbound Memory Queue, and is counted against its window (R71, R92). -/
def State.enqueueInbound (s : State) (c : RxCell) (buffer : Option BufNo) (w : WindowNo) (a : Addr) : State :=
  let v := s.windows[w]
  State.setWindow { s with imq := presentHead (s.imq ++ [inboundOpOf c buffer w a]) } w
    { v with inFlight := v.inFlight + 1, accepted := v.accepted + 1 }

/-- The Dispatcher's wait for a memory queue place: with a place free, the admission lookup decides
(R84, R85). A READ refused here frees its buffer. -/
def State.tryAdmit (s : State) (c : RxCell) (buffer : Option BufNo) : State :=
  if s.imq.length < Config.inboundDepth then
    match s.lookupCell c.header with
    | .accepted w a => (s.enqueueInbound c buffer w a).endHandling
    | .refused reason matched =>
      let t := match buffer with
        | some b => s.freeBuffer b
        | none => s
      t.refuse c.header reason matched
  else s.wait (.memoryPlace buffer)

/-- The Responder takes a buffer for a READ (R97), which then goes to the wait for a memory queue place. -/
def State.tryBuffer (s : State) (c : RxCell) : State :=
  match s.responderBuffer with
  | some b => (s.setBuffer b (.held .responder .assigned)).tryAdmit c (some b)
  | none => s.wait .responderBuffer

/-- A WRITE in hand (R84). -/
def State.dispatchWrite (s : State) (c : RxCell) : State :=
  if c.good then
    match s.lookupCell c.header with
    | .accepted _ _ => s.tryAdmit c none
    | .refused reason matched => s.refuse c.header reason matched
  else ((s.raise .cellError).raise .inboundRefused).nak c.header .corrupt

/-- A READ in hand (R85). -/
def State.dispatchRead (s : State) (c : RxCell) : State :=
  match s.lookupCell c.header with
  | .accepted _ _ => s.tryBuffer c
  | .refused reason matched => s.refuse c.header reason matched

/-! ### Responses (R41, R53–R58, R86, R87) -/

/-- The kind fits the request type (R53): DATA for READ, ACK for ACKED_WRITE, NAK for either. -/
def RequestType.answeredBy (t : RequestType) (k : Kind) : Bool :=
  match t, k with
  | .read _, .data => true
  | .ackedWrite, .ack => true
  | _, .nak => true
  | _, _ => false

/-- The entry can be matched at all: WAITING or ABANDONED with its deadline present, or QUARANTINED (R53,
R62). -/
def Tag.sent : Tag → Bool
  | .waiting _ d | .abandoned _ d => d.isSome
  | .quarantined _ _ => true
  | .free => false

/-- A response matches its entry (R53). -/
def Tag.matchesResponse (t : Tag) (h : Header) (k : Kind) : Bool :=
  t.sent && match t.info with
    | some i => h.source = slotByte i.slot && h.origin = moverByte i.origin && i.type.answeredBy k
    | none => false

/-- A place for the pending write of good DATA in the owner's memory queue (R87). -/
def State.placeData (s : State) (m : MoverId) (cardAddr ringAddr : Addr) (c : RxCell) : State :=
  let v := s.mover m
  s.setMover m { v with queue := v.queue ++
    [{ kind := .write c.payload, cardAddr := cardAddr, length := c.header.length.toNat
       remote := ringAddr, stage := .queued }] }

/-- Good DATA: its write is placed at once, or becomes the owner's pending write (R54, R87). -/
def State.takeData (s : State) (m : MoverId) (cardAddr ringAddr : Addr) (c : RxCell) : State :=
  if (s.mover m).queueRoom then (s.placeData m cardAddr ringAddr c).endHandling
  else
    let v := s.mover m
    (s.setMover m { v with pendingWrites := v.pendingWrites + 1 }).wait
      (.moverPlace m cardAddr ringAddr)

/-- A response that matches a WAITING tag (R54, R55, R56). The tag goes to FREE in every case. -/
def State.waitingResponse (s : State) (t : TagNo) (i : TagInfo) (k : Kind) (c : RxCell) : State :=
  let s := s.freeTag t
  let m := i.origin
  match k, i.type with
  | .data, .read a =>
    if c.header.length.toNat ≠ i.length then
      ((s.endHandling).dropPiece m).takeFault m (tagFault .dataLength t i none)
    else if c.good then s.takeData m a i.ringAddr c
    else ((s.endHandling).dropPiece m).takeFault m (tagFault .dataCorrupt t i none)
  | .ack, _ => (s.endHandling).settlePiece m i.length
  | _, _ => ((s.endHandling).dropPiece m).takeFault m (tagFault .remoteRefused t i (some c.header.seq))

/-- The Tag Table takes a response with a tag of 0–0FEh (R53–R58). -/
def State.tagResponse (s : State) (k : Kind) (c : RxCell) : State :=
  let s := if k = .data ∧ c.good = false then s.raise .cellError else s
  match tagOf c.header.tag with
  | none => (s.raise .strayResponse).endHandling
  | some t =>
    if s.tags[t].matchesResponse c.header k then
      match s.tags[t] with
      | .waiting i _ => s.waitingResponse t i k c
      | .abandoned i _ => (((s.freeTag t).dropPiece i.origin).endHandling).checkQuiet i.origin
      | .quarantined _ _ => ((s.freeTag t).raise .strayResponse).endHandling
      | .free => s
    else (s.raise .strayResponse).endHandling

/-- A fault of an untracked cell (R41, R42): the current element's address, no tag. -/
def untrackedFault (v : Mover) (k : FaultKind) (remote : Addr) (nak : Option Byte) : FaultRecord :=
  { kind := k, elemAddr := v.currentAddr, remote := some remote, tag := none, nak := nak, further := 0 }

/-- A response with tag 0FFh (R41, R86). -/
def State.untrackedResponse (s : State) (k : Kind) (c : RxCell) : State :=
  let s := if k = .data ∧ c.good = false then s.raise .cellError else s
  let s := s.endHandling
  match k, moverOf c.header.origin with
  | .nak, some m =>
    let v := s.mover m
    if v.state.carrying || v.state.draining then
      s.takeFault m (untrackedFault v .remoteRefused c.header.ringAddr (some c.header.seq))
    else s.raise .strayResponse
  | _, _ => s.raise .strayResponse

/-- A DATA, ACK or NAK in hand goes by its tag field (R86). -/
def State.dispatchResponse (s : State) (k : Kind) (c : RxCell) : State :=
  if c.header.tag = 0xFF then s.untrackedResponse k c else s.tagResponse k c

/-- An MGMT in hand (R88, R157): discarded when BAD, and in RESETTING; else it waits for the Management
Unit. -/
def State.dispatchMgmt (s : State) (c : RxCell) : State :=
  if c.good then
    match s.mgmt.mode with
    | .resetting => s.endHandling
    | .ready => s.wait .management
  else (s.raise .cellError).endHandling

/-! ### The commands -/

/-- DISPATCH_CELL (R82): with no cell in hand, the head of the Receive Queue is taken and handled by its
kind, as far as its resources are at hand. -/
def dispatch (s : State) : State :=
  match s.inbound.hand, s.inbound.queue with
  | none, c :: _ =>
    match c.header.kind? with
    | some .write => s.dispatchWrite c
    | some .read => s.dispatchRead c
    | some .data => s.dispatchResponse .data c
    | some .ack => s.dispatchResponse .ack c
    | some .nak => s.dispatchResponse .nak c
    | some .mgmt => s.dispatchMgmt c
    | some .reply => (s.raise .strayResponse).endHandling
    | some .attn => (s.raise .strayResponse).endHandling
    | none => (s.raise .cellError).endHandling
  | _, _ => s

def execDispatchCell (s : State) : Host.Outcome State Fault Refusal := .next (dispatch s).finish

/-- DISPATCHER_NAK_PLACED (R90). -/
def placeNak (s : State) : State :=
  match s.inbound.hand, s.inbound.queue with
  | some (.nakPlace reason), c :: _ => s.nak c.header reason
  | _, _ => s

def execDispatcherNakPlaced (s : State) : Host.Outcome State Fault Refusal := .next (placeNak s)

/-- RESPONDER_BUFFER_TAKEN (R97). -/
def takeResponderBuffer (s : State) : State :=
  match s.inbound.hand, s.inbound.queue with
  | some .responderBuffer, c :: _ => s.tryBuffer c
  | _, _ => s

def execResponderBufferTaken (s : State) : Host.Outcome State Fault Refusal :=
  .next (takeResponderBuffer s).finish

/-- INBOUND_ADMISSION (R68). -/
def admission (s : State) : State :=
  match s.inbound.hand, s.inbound.queue with
  | some (.memoryPlace buffer), c :: _ => s.tryAdmit c buffer
  | _, _ => s

def execInboundAdmission (s : State) : Host.Outcome State Fault Refusal := .next (admission s).finish

/-- MOVER_QUEUE_WRITE_PLACED (R87). -/
def placePendingWrite (s : State) : State :=
  match s.inbound.hand, s.inbound.queue with
  | some (.moverPlace m cardAddr ringAddr), c :: _ =>
    if (s.mover m).queueRoom then
      let t := s.placeData m cardAddr ringAddr c
      (t.setMover m { t.mover m with pendingWrites := (t.mover m).pendingWrites - 1 }).endHandling
    else s
  | _, _ => s

def execMoverQueueWritePlaced (s : State) : Host.Outcome State Fault Refusal :=
  .next (placePendingWrite s)

/-- IMQ_REPLY_PLACED (R96). -/
def execImqReplyPlaced (s : State) : Host.Outcome State Fault Refusal := .next s.inboundReplyStep

end Sys2Proof.Machine
end

