-- ==== Sys2Proof/Machine/RingPort.lean ====
section
/-! DEFINITION. The Ring Port: link state, the disposition of received cells, the ring-out arbiter, the
finish of a cell (chapter 8), and both resets. -/

namespace Sys2Proof.Machine

/-! ### Ring-in (R139–R146) -/

/-- The ready indication that ring-in shows upstream (R139, R140). -/
def State.ready (s : State) : Bool :=
  s.ring.link = .up && s.ring.transit.length < Config.transitDepth
    && s.inbound.queue.length < Config.receiveDepth

/-- A change of link state raises LINK_CHANGE (R139). -/
def State.setLink (s : State) (l : Link) : State :=
  if s.ring.link = l then s
  else State.raise { s with ring := { s.ring with link := l } } .linkChange

/-- LINK_UP (R139). -/
def execLinkUp (s : State) : Host.Outcome State Fault Refusal := .next (s.setLink .up).finish

/-- LINK_DOWN (R139). -/
def execLinkDown (s : State) : Host.Outcome State Fault Refusal := .next (s.setLink .down).finish

/-- An orphan notice matches its entry (R62; log 20). -/
def Tag.matchesOrphan (t : Tag) (h : Header) (k : Kind) : Bool :=
  t.sent && match t.info with
    | some i =>
      h.dest = slotByte i.slot && h.origin = moverByte i.origin
        && (match i.type with
          | .read _ => k = .read
          | .ackedWrite => k = .write)
    | none => false

/-- The Tag Table takes an orphan notice (R62). -/
def State.orphanNotice (s : State) (h : Header) (k : Kind) : State :=
  match tagOf h.tag with
  | none => s
  | some t =>
    if s.tags[t].matchesOrphan h k then
      match s.tags[t] with
      | .waiting i _ =>
        ((s.freeTag t).dropPiece i.origin).takeFault i.origin (tagFault .noTaker t i none)
      | .abandoned i _ => ((s.freeTag t).dropPiece i.origin).checkQuiet i.origin
      | .quarantined _ _ => s.freeTag t
      | .free => s
    else s

/-- A mover is told of an orphaned untracked WRITE (R42). -/
def State.untrackedOrphan (s : State) (h : Header) : State :=
  match moverOf h.origin with
  | some m =>
    let v := s.mover m
    if v.state.carrying || v.state.draining then
      s.takeFault m (untrackedFault v .noTaker h.ringAddr none)
    else s
  | none => s

/-- An orphan is stripped, and its kind decides who is told (R144). -/
def State.orphan (s : State) (h : Header) : State :=
  let s := s.raise .cellDropped
  match h.kind? with
  | some .read => s.orphanNotice h .read
  | some .write => if h.ackReq then s.orphanNotice h .write else s.untrackedOrphan h
  | _ => s

/-- The disposition of a received cell, by the ordered tests of R142. -/
def State.dispose (s : State) (frame : List Byte) (invalidChar : Bool) : State :=
  let h := Header.ofBytes frame
  if damaged frame invalidChar then s.raise .cellError
  else if h.dest = s.ownByte then
    { s with inbound := { s.inbound with queue := s.inbound.queue ++ [rxCellOf frame] } }
  else if h.source = s.ownByte then s.orphan h
  else if h.hops = 0 then s.raise .cellDropped
  else { s with ring := { s.ring with transit := s.ring.transit ++ [forwardedFrame frame] } }

/-- CELL_RECEIVED (R140, R142). While ring-in is DOWN no cell is received; a whole cell while ring-in is
UP and shows not ready is what R140 keeps upstream from (log 8). -/
def execCellReceived (frame : List Byte) (invalidChar : Bool) (s : State) :
    Host.Outcome State Fault Refusal :=
  if s.ring.link = .down then .next s
  else if s.ready then .next (s.dispose frame invalidChar).finish
  else .fault .ringInOverrun

/-! ### Ring-out (R148–R150, R112, R114) -/

/-- The payload with which a Reply Queue cell is sent (R115). -/
def State.replyBytes (s : State) (c : ReplyCell) : List Byte :=
  match c.payload with
  | .none => []
  | .buffer b => s.pool[b].data
  | .bytes bs => bs

/-- The payload with which a Request Queue cell is sent: a WRITE's buffer (R111). -/
def State.requestBytes (s : State) (c : RequestCell) : List Byte :=
  match c.buffer with
  | some b => s.pool[b].data
  | none => []

/-- A cell starts on ring-out. -/
def State.begin (s : State) (src : RingSource) (frame : List Byte) (counter : Nat) : State :=
  { s with ring :=
      { s.ring with
        passCounter := counter
        out := some { source := src, frame := frame, beforeReset := false } } }

/-- The buffer of a cell that starts goes to SENDING (R112, R114). -/
def State.sendBuffer (s : State) (b : Option BufNo) (h : Header) : State :=
  match b with
  | some b => s.stageBuffer b (.sending (s.pool[b].data) h)
  | none => s

/-- The head of the Reply Queue starts, or of the Request Queue when the Reply Queue is empty; the pass
counter becomes 0 (R148 case 2). The header check, and the payload check, are formed now (R150). -/
def State.sendLocal (s : State) : State :=
  match s.replyQueue, s.requestQueue with
  | c :: rest, _ =>
    let t := { s with replyQueue := rest }
    (t.sendBuffer (RingSource.reply c).buffer c.header).begin (.reply c)
      (cellFrame c.header (s.replyBytes c)) 0
  | [], c :: rest =>
    let t := { s with requestQueue := rest }
    (t.sendBuffer c.buffer c.header).begin (.request c) (cellFrame c.header (s.requestBytes c)) 0
  | [], [] => s

/-- A local queue is non-empty. -/
def State.localWaiting (s : State) : Bool := s.replyQueue ≠ [] || s.requestQueue ≠ []

/-- The arbiter's choice, with ring-out free and downstream ready (R148). -/
def State.choose (s : State) : State :=
  match s.ring.transit with
  | f :: rest =>
    if s.localWaiting = false ∨ s.ring.passCounter < s.mgmt.params.passCount then
      State.begin { s with ring := { s.ring with transit := rest } } .transit f
        (if s.localWaiting then s.ring.passCounter + 1 else s.ring.passCounter)
    else s.sendLocal
  | [] => s.sendLocal

/-- RING_OUT_CHOICE (R148): made when ring-out is free and downstream shows ready. -/
def ringOutChoice (downstreamReady : Bool) (s : State) : State :=
  if downstreamReady && s.ring.out.isNone then s.choose else s

def execRingOutChoice (downstreamReady : Bool) (s : State) : Host.Outcome State Fault Refusal :=
  .next (ringOutChoice downstreamReady s)

/-! ### Resets -/

/-- At a reset point a local cell on ring-out has been begun before it (R119, R150). -/
def OnRing.passReset (o : OnRing) : OnRing :=
  match o.source with
  | .transit => o
  | .request _ | .reply _ => { o with beforeReset := true }

/-- The reset point of a node reset (R183): every block takes its node reset values. The own slot, the link
state, the transit FIFO and the operation on the card memory bus are kept (R155, R132). -/
def State.nodeReset (s : State) : State :=
  { State.reset with
    ring :=
      { ownSlot := s.ring.ownSlot, link := s.ring.link, transit := s.ring.transit, passCounter := 0
        out := s.ring.out.map OnRing.passReset }
    port :=
      { inFlight := s.port.inFlight.map (fun p => { p with requester := none })
        lastServed := .mover .m1, nextSerial := s.port.nextSerial }
    cardMem := s.cardMem, now := s.now, free := s.free, pending := s.pending }

/-- The operation on the bus at a hard reset is ended without waiting for its answer (R131). -/
def State.cutOperation (s : State) : State :=
  match s.port.inFlight with
  | some p => s.memoryEffect p .error
  | none => s

/-- HARD_RESET (R154, R152): every block takes its hard reset values, and the own slot is sampled. -/
def hardReset (pins : Slot) (s : State) : State :=
  let t := s.cutOperation
  { State.reset with
    ring := .reset pins
    port := { inFlight := none, lastServed := .mover .m1, nextSerial := t.port.nextSerial }
    cardMem := t.cardMem, now := t.now, free := t.free, pending := t.pending }

def execHardReset (pins : Slot) (s : State) : Host.Outcome State Fault Refusal :=
  .next (hardReset pins s)

/-! ### The finish of a cell (R150, R110, R27, R51) -/

/-- The deadline of a tag starts when its request cell has finished (R51). -/
def Tag.startDeadline (d : Time) : Tag → Tag
  | .waiting i none => .waiting i (some d)
  | .abandoned i none => .abandoned i (some d)
  | t => t

def State.startDeadline (s : State) (t : TagNo) : State :=
  s.setTag t (s.tags[t].startDeadline (s.now + s.responseTime))

/-- The buffer is in SENDING. -/
def Buffer.sendingNow : Buffer → Bool
  | .held _ (.sending _ _) => true
  | _ => false

/-- The finish of a WRITE (R27, R110): the buffer is freed; an untracked piece settles, a tracked one
starts its deadline. -/
def State.finishWrite (s : State) (c : RequestCell) (b : BufNo) : State :=
  let freed := if s.pool[b].sendingNow then s.freeBuffer b else s
  match tagOf c.header.tag with
  | some t => (freed.startDeadline t).checkQuiet c.mover
  | none =>
    if s.pool[b].sendingNow then (freed.settlePiece c.mover c.header.length.toNat).checkQuiet c.mover
    else freed

/-- The finish of a cell of the Request Queue. -/
def State.finishRequest (s : State) (c : RequestCell) : State :=
  match c.buffer with
  | some b => s.finishWrite c b
  | none => match tagOf c.header.tag with
    | some t => s.startDeadline t
    | none => s

/-- The finish of a cell of the Reply Queue other than the reset reply: a DATA frees its buffer. -/
def State.finishReply (s : State) (c : ReplyCell) : State :=
  match c.payload with
  | .buffer b => if s.pool[b].sendingNow then s.freeBuffer b else s
  | _ => s

/-- CELL_FINISHED (R150). The finish of the reset reply is the reset point, before which the arbiter's next
choice may be taken (R155). A local cell begun before a reset point changes nothing (R119, R150). -/
def finishCell (choiceFirst : Bool) (s : State) : State :=
  match s.ring.out with
  | some o =>
    let t := { s with ring := { s.ring with out := none } }
    if o.beforeReset then t
    else
      match o.source with
      | .transit => t
      | .request c => t.finishRequest c
      | .reply c =>
        if c.isReset then (if choiceFirst then t.choose else t).nodeReset
        else t.finishReply c
  | none => s

def execCellFinished (choiceFirst : Bool) (s : State) : Host.Outcome State Fault Refusal :=
  .next (finishCell choiceFirst s).finish

end Sys2Proof.Machine
end

