-- ==== Sys2Proof/Machine/Management.lean ====
section
/-! DEFINITION. The Management Unit (chapter 9): the taking of an MGMT cell, claim, sequence and replay
rules, the fifteen commands, and the steps of its replies and of the Event Unit's ATTN cells. -/

namespace Sys2Proof.Machine

/-! ### What a command's entry answers -/

/-- What the carrying out of a command by its entry gives (R162, R163, R169, R182). -/
inductive Answer where
  /-- a status and results; the reply is stored -/
  | reply (st : Status) (results : List Byte)
  /-- RELEASE: an OK that is sent and not stored -/
  | released
  /-- the command is deferred -/
  | defer (what : DeferTarget)
  /-- NODE_RESET: an OK that is stored and is the reset reply -/
  | resetting
  deriving DecidableEq, Repr

/-- A command's entry: from the cell, with its payload of the request length, and the state. -/
abbrev Entry := RxCell → State → State × Answer

/-! ### Replies (R157, R162, R163, R165) -/

/-- The first byte of the MGMT payload as received, 00h when it is empty (R165). -/
def RxCell.codeByte (c : RxCell) : Byte := byteAt c.payload 0

/-- A reply is formed for the cell last taken, and waits for a place (R157, R165). -/
def State.sendReply (s : State) (c : RxCell) (r : StoredReply) (isReset : Bool) : State :=
  { s with mgmt :=
      { s.mgmt with
        replyLast := some
          { dest := c.header.source, origin := c.header.origin, tag := c.header.tag
            seq := c.header.seq, status := r.status, payload := r.payload, isReset := isReset } } }

/-- The reply with a status and its results. -/
def RxCell.replyWith (c : RxCell) (st : Status) (results : List Byte) : StoredReply :=
  { payload := replyPayload c.codeByte st results, status := st }

/-- The reply is stored, and last-sequence becomes the cell's sequence (R162). -/
def State.store (s : State) (c : RxCell) (r : StoredReply) : State :=
  { s with mgmt := { s.mgmt with stored := some r, lastSeq := some c.header.seq } }

/-- A restart of the lapse timer (R159), with the claim lapse now in force. -/
def State.restartLapse (s : State) : State :=
  { s with mgmt :=
      { s.mgmt with
        lapseTimer :=
          match s.mgmt.claim with
          | .claimed _ =>
            if s.mgmt.params.claimLapse = 0 then none
            else some (s.now + 100000 * s.mgmt.params.claimLapse)
          | _ => none } }

/-! ### Handling a taken cell (R158, R160–R163) -/

/-- A cell from the manager taken in LAPSED returns the claim to CLAIMED (R158). -/
def Claim.renew : Claim → Claim
  | .lapsed m => .claimed m
  | c => c

/-- The cell is from the manager (R158). -/
def State.fromManager (s : State) (c : RxCell) : Bool :=
  match s.mgmt.claim.manager with
  | some m => c.header.source = slotByte m
  | none => false

/-- The end of an execution: what the answer does to the Management Unit (R162, R163, R169, R182). -/
def State.conclude (s : State) (c : RxCell) : Answer → State
  | .reply st results =>
    (s.sendReply c (c.replyWith st results) false).store c (c.replyWith st results)
  | .released => s.sendReply c (c.replyWith .ok []) false
  | .defer what =>
    { s with mgmt :=
        { s.mgmt with
          deferred := some
            { target := what, seq := c.header.seq, sender := c.header.source
              origin := c.header.origin, tag := c.header.tag }
          lastSeq := some c.header.seq, stored := none } }
  | .resetting =>
    let t := (s.sendReply c (c.replyWith .ok []) true).store c (c.replyWith .ok [])
    { t with mgmt := { t.mgmt with mode := .resetting } }

/-- Execution of a command from the manager (R162). -/
def State.execute (s : State) (c : RxCell) (entry : Entry) : State :=
  match commandOf c.payload with
  | none => s.conclude c (.reply .badCommand [])
  | some cmd =>
    if c.payload.length ≠ cmd.requestLength then s.conclude c (.reply .badArgument [])
    else
      let (t, a) := entry c s
      t.conclude c a

/-- A cell from the manager is handled by its sequence (R161), and restarts the lapse timer (R159). -/
def State.handleManager (s : State) (c : RxCell) (entry : Entry) : State :=
  let s := { s with mgmt := { s.mgmt with claim := s.mgmt.claim.renew } }
  let t :=
    match s.mgmt.deferred with
    | some d =>
      if c.header.seq = d.seq then s else s.sendReply c (c.replyWith .busy []) false
    | none =>
      match s.mgmt.stored with
      | some r =>
        if s.mgmt.lastSeq = some c.header.seq then s.sendReply c r false else s.execute c entry
      | none => s.execute c entry
  t.restartLapse

/-- How a command answers a non-manager: the two that anyone may give have an entry of their own. -/
abbrev Stranger := RxCell → State → State

/-- NOT_MANAGER, not stored (R160). -/
def notManager : Stranger := fun c s => s.sendReply c (c.replyWith .notManager []) false

/-- CLAIM or READ_STATUS from a non-manager (R160): BUSY while a command is deferred, BAD_ARGUMENT for a
wrong length, else execution. -/
def openToAll (body : Stranger) : Stranger := fun c s =>
  match s.mgmt.deferred with
  | some _ => s.sendReply c (c.replyWith .busy []) false
  | none =>
    if c.payload.length ≠ 1 then s.sendReply c (c.replyWith .badArgument []) false else body c s

/-- The handling of a taken cell: one from a source above 31 is discarded (R160). -/
def State.handleCell (s : State) (c : RxCell) (entry : Entry) (stranger : Stranger) : State :=
  if c.header.source.toNat > 31 then s
  else if s.fromManager c then s.handleManager c entry
  else stranger c s

/-- The MGMT cell that the Dispatcher holds for the Management Unit (R88). -/
def State.mgmtInHand (s : State) : Option RxCell :=
  match s.inbound.hand with
  | some .management => s.inbound.queue.head?
  | _ => none

/-- A reply of the unit's own is waiting for a place (R157). -/
def Mgmt.replyWaiting (g : Mgmt) : Bool := g.replyLast.isSome || g.replyDeferred.isSome

/-- The Management Unit takes the cell in the Dispatcher's hand, if its command is `want` (R157). In
RESETTING it is discarded; in READY it is taken when no reply of the unit is waiting. -/
def State.takeMgmt (s : State) (want : Option Command) (entry : Entry) (stranger : Stranger) : State :=
  match s.mgmtInHand with
  | some c =>
    if commandOf c.payload = want then
      match s.mgmt.mode with
      | .resetting => s.endHandling
      | .ready => if s.mgmt.replyWaiting then s else (s.endHandling).handleCell c entry stranger
    else s
  | none => s

/-! ### CLAIM, RELEASE (R168, R169, R191) -/

/-- A CLAIM executed with status OK makes `m` the manager; its report, and the CLAIM_CHANGE of a takeover,
reach the Event Unit in either order (log 12). -/
def State.acceptClaim (s : State) (m : Slot) (takeover : Bool) : State :=
  let t : State := { s with mgmt := { s.mgmt with claim := .claimed m } }
  if takeover then
    let t := { t with free := t.free + 1 }
    if Config.claimChangeFirst s.free then (t.takeOccurrence .claimChange).claimReport
    else (t.claimReport).takeOccurrence .claimChange
  else t.claimReport

/-- CLAIM from the present manager (R168). -/
def claimEntry : Entry := fun _ s => (s.claimReport, .reply .ok [])

/-- The OK reply of an accepted CLAIM is stored, and the lapse timer restarts (R159, R168). -/
def State.claimAccepted (s : State) (c : RxCell) (takeover : Bool) : State :=
  ((s.acceptClaim (c.header.source.setWidth 5) takeover).conclude c (.reply .ok [])).restartLapse

/-- CLAIM from another slot (R168). -/
def claimStranger : Stranger := openToAll fun c s =>
  match s.mgmt.claim with
  | .unclaimed => s.claimAccepted c false
  | .lapsed _ => s.claimAccepted c true
  | .claimed _ => s.sendReply c (c.replyWith .notManager []) false

def execClaim (s : State) : Host.Outcome State Fault Refusal :=
  .next (s.takeMgmt (some .claim) claimEntry claimStranger).finish

/-- RELEASE (R169). -/
def releaseEntry : Entry := fun _ s =>
  (State.attentionToIdle
    { s with mgmt :=
        { s.mgmt with claim := .unclaimed, lastSeq := none, stored := none, lapseTimer := none } },
   .released)

def execRelease (s : State) : Host.Outcome State Fault Refusal :=
  .next (s.takeMgmt (some .release) releaseEntry notManager).finish

/-! ### READ_STATUS, READ_EVENTS (R170, R171) -/

def Claim.code : Claim → Byte
  | .unclaimed => 0x00 | .claimed _ => 0x01 | .lapsed _ => 0x02

/-- The claim state's bytes: its code, and the manager slot or 0FFh. -/
def Claim.bytes (c : Claim) : List Byte :=
  [c.code, match c.manager with
    | some m => slotByte m
    | none => 0xFF]

def Tag.isFree : Tag → Bool
  | .free => true
  | _ => false
def Tag.isWaiting : Tag → Bool
  | .waiting _ _ => true
  | _ => false
def Tag.isAbandoned : Tag → Bool
  | .abandoned _ _ => true
  | _ => false
def Tag.isQuarantined : Tag → Bool
  | .quarantined _ _ => true
  | _ => false

/-- Free staging buffers as READ_STATUS counts them (R117; log 18). -/
def State.freeBuffers (s : State) : Nat := (List.finRange 8).countP s.grantable

/-- The 22 bytes of READ_STATUS (R170). -/
def State.statusBytes (s : State) : List Byte :=
  [s.ownByte, match s.ring.link with | .down => 0x00 | .up => 0x01]
    ++ s.mgmt.claim.bytes
    ++ [s.mover0.state.code, s.mover1.state.code,
        byteOf (s.windows.toList.countP (fun w => w.state = .opened)),
        byteOf (s.tags.toList.countP Tag.isFree), byteOf (s.tags.toList.countP Tag.isWaiting),
        byteOf (s.tags.toList.countP Tag.isAbandoned),
        byteOf (s.tags.toList.countP Tag.isQuarantined),
        byteOf s.freeBuffers,
        byteOf s.ring.transit.length, byteOf s.inbound.queue.length, byteOf s.imq.length,
        byteOf s.replyQueue.length, byteOf s.requestQueue.length,
        match s.events.state with | .idle => 0x00 | .sent => 0x01]
    ++ le16 s.events.number
    ++ (match s.mgmt.lastSeq with
        | some q => [0x01, q]
        | none => [0x00, 0x00])

/-- READ_STATUS from the manager: the snapshot is stored (R170). -/
def readStatusEntry : Entry := fun _ s => (s, .reply .ok s.statusBytes)

/-- READ_STATUS from another slot: executed and not stored (R160, R170). -/
def readStatusStranger : Stranger := openToAll fun c s =>
  s.sendReply c (c.replyWith .ok s.statusBytes) false

def execReadStatus (s : State) : Host.Outcome State Fault Refusal :=
  .next (s.takeMgmt (some .readStatus) readStatusEntry readStatusStranger).finish

/-- READ_EVENTS (R171, R187). -/
def readEventsEntry : Entry := fun _ s => (s.clearEvents, .reply .ok s.events.snapshotBytes)

def execReadEvents (s : State) : Host.Outcome State Fault Refusal :=
  .next (s.takeMgmt (some .readEvents) readEventsEntry notManager).finish

/-! ### SET_PARAMS (R172, R194) -/

/-- The fields of SET_PARAMS, each present or not by the presence set. -/
structure ParamFields where
  responseTimeout : Option Nat
  memoryTimeout : Option Nat
  attentionRepeat : Option Nat
  claimLapse : Option Nat
  passCount : Option Nat
  hopLimit : Option Nat
  tagLimit0 : Option Nat
  tagLimit1 : Option Nat
  eventMask : Option Half
  deriving DecidableEq, Repr

/-- The presence set of a SET_PARAMS payload. -/
def presenceSet (p : List Byte) : Half := halfAt p 1

/-- The field at offset `i`, present when bit `n` of the presence set is. -/
def paramField (p : List Byte) (n i : Nat) : Option Nat :=
  if (presenceSet p).getLsbD n then some (byteAt p i).toNat else none

def paramFields (p : List Byte) : ParamFields :=
  { responseTimeout := paramField p 0 3, memoryTimeout := paramField p 1 4
    attentionRepeat := paramField p 2 5, claimLapse := paramField p 3 6
    passCount := paramField p 4 7, hopLimit := paramField p 5 8
    tagLimit0 := paramField p 6 9, tagLimit1 := paramField p 7 10
    eventMask := if (presenceSet p).getLsbD 8 then some (halfAt p 11) else none }

/-- A present value lies in a range; an absent one is not checked. -/
def inRange (lo hi : Nat) : Option Nat → Bool
  | some v => lo ≤ v && v ≤ hi
  | none => true

/-- Every present field lies in its range (R166, R172 check 2). -/
def ParamFields.valid (f : ParamFields) : Bool :=
  inRange 1 255 f.responseTimeout && inRange 1 15 f.memoryTimeout && inRange 0 255 f.attentionRepeat
    && inRange 0 255 f.claimLapse && inRange 1 15 f.passCount && inRange 1 31 f.hopLimit
    && inRange 1 16 f.tagLimit0 && inRange 1 16 f.tagLimit1

/-- A mover whose tag limit may be set (R50, R172 check 3). -/
def MoverState.resting : MoverState → Bool
  | .idle | .halted => true
  | _ => false

/-- All present fields applied together. -/
def ParamFields.apply (f : ParamFields) (p : Params) : Params :=
  { responseTimeout := f.responseTimeout.getD p.responseTimeout
    memoryTimeout := f.memoryTimeout.getD p.memoryTimeout
    attentionRepeat := f.attentionRepeat.getD p.attentionRepeat
    claimLapse := f.claimLapse.getD p.claimLapse
    passCount := f.passCount.getD p.passCount
    hopLimit := f.hopLimit.getD p.hopLimit
    tagLimit0 := f.tagLimit0.getD p.tagLimit0
    tagLimit1 := f.tagLimit1.getD p.tagLimit1
    eventMask := f.eventMask.getD p.eventMask }

/-- The attention repeat that SET_PARAMS gives counts as changed: its value differs, or the implementation
takes every present value as a change (log 13). -/
def repeatChanged (old : Nat) : Option Nat → Bool
  | some v => v ≠ old || Config.sameRepeatRestarts
  | none => false

/-- A changed attention repeat restarts a timer in SENT (R194). -/
def State.repeatTaken (s : State) (changed : Bool) : State :=
  if changed && s.events.state = .sent then
    { s with events := { s.events with timer := s.repeatExpiry } }
  else s

/-- A present event mask is handed to the Event Unit, which tests the condition (R194). -/
def State.maskTaken (s : State) (present : Bool) : State := if present then s.testAttention else s

/-- SET_PARAMS applied (R172). -/
def State.applyParams (s : State) (f : ParamFields) : State :=
  let old := s.mgmt.params.attentionRepeat
  let t : State := { s with mgmt := { s.mgmt with params := f.apply s.mgmt.params } }
  (t.repeatTaken (repeatChanged old f.attentionRepeat)).maskTaken f.eventMask.isSome

/-- SET_PARAMS (R172), checked in full before anything is applied. -/
def setParamsEntry : Entry := fun c s =>
  let f := paramFields c.payload
  if (presenceSet c.payload).toNat ≥ 0x200 then (s, .reply .badArgument [])
  else if !f.valid then (s, .reply .badArgument [])
  else if (f.tagLimit0.isSome && !s.mover0.state.resting)
      || (f.tagLimit1.isSome && !s.mover1.state.resting) then (s, .reply .wrongState [])
  else
    let t := s.applyParams f
    (t, .reply .ok t.mgmt.params.bytes)

def execSetParams (s : State) : Host.Outcome State Fault Refusal :=
  .next (s.takeMgmt (some .setParams) setParamsEntry notManager).finish

/-! ### Windows (R73–R77, R79, R173–R175) -/

/-- The window that a WINDOW_OPEN asks for, its counts at 0 (R75). -/
def windowAsked (p : List Byte) : Window :=
  let rights := byteAt p 11
  { state := .opened, ringBase := wordAt p 2, sizeExp := (byteAt p 6).toNat, cardBase := wordAt p 7
    canRead := rights.getLsbD 0, canWrite := rights.getLsbD 1, mask := wordAt p 12
    inFlight := 0, accepted := 0, refused := 0 }

/-- The checks of R74 that follow the index, and the rights check of R173. -/
def windowArgsValid (p : List Byte) : Bool :=
  let w := windowAsked p
  w.sizeExp ≤ 18
    && w.ringBase.toNat % windowSize w.sizeExp = 0
    && w.cardBase.toNat % 4096 = 0
    && w.cardBase.toNat + windowSize w.sizeExp ≤ 0x100000000
    && 1 ≤ (byteAt p 11).toNat && (byteAt p 11).toNat ≤ 3
    && w.mask ≠ 0

/-- Two ring ranges intersect. -/
def Window.intersects (v w : Window) : Bool :=
  v.ringBase.toNat < w.ringEnd && w.ringBase.toNat < v.ringEnd

/-- The window is OPEN or DRAINING. -/
def Window.active (w : Window) : Bool := w.state ≠ .closed

/-- WINDOW_OPEN (R74, R75, R173). -/
def windowOpenEntry : Entry := fun c s =>
  match windowOf (byteAt c.payload 1) with
  | none => (s, .reply .badArgument [])
  | some i =>
    let w := windowAsked c.payload
    if !windowArgsValid c.payload then (s, .reply .badArgument [])
    else if (s.windows[i]).active then (s, .reply .wrongState [])
    else if s.windows.toList.any (fun v => v.active && v.intersects w) then (s, .reply .overlap [])
    else (s.setWindow i w, .reply .ok [])

def execWindowOpen (s : State) : Host.Outcome State Fault Refusal :=
  .next (s.takeMgmt (some .windowOpen) windowOpenEntry notManager).finish

/-- WINDOW_CLOSE (R76, R174). Its entry never finds a window DRAINING (R76). -/
def windowCloseEntry : Entry := fun c s =>
  match windowOf (byteAt c.payload 1) with
  | none => (s, .reply .badArgument [])
  | some i =>
    let w := s.windows[i]
    match w.state with
    | .opened =>
      if w.inFlight = 0 then (s.setWindow i { w with state := .closed }, .reply .ok [])
      else (s.setWindow i { w with state := .draining }, .defer (.windowClose i))
    | .closed | .draining => (s, .reply .ok [])

def execWindowClose (s : State) : Host.Outcome State Fault Refusal :=
  .next (s.takeMgmt (some .windowClose) windowCloseEntry notManager).finish

/-- The 24 bytes of WINDOW_QUERY (R175). -/
def Window.bytes (w : Window) : List Byte :=
  [w.state.code] ++ le32 w.ringBase ++ [byteOf w.sizeExp] ++ le32 w.cardBase
    ++ [w.rightsByte] ++ le32 w.mask ++ [byteOf w.inFlight] ++ le32 w.accepted ++ le32 w.refused

/-- WINDOW_QUERY (R79, R175). -/
def windowQueryEntry : Entry := fun c s =>
  match windowOf (byteAt c.payload 1) with
  | none => (s, .reply .badArgument [])
  | some i => (s, .reply .ok (s.windows[i]).bytes)

def execWindowQuery (s : State) : Host.Outcome State Fault Refusal :=
  .next (s.takeMgmt (some .windowQuery) windowQueryEntry notManager).finish

/-! ### Movers (R22, R31–R35, R43–R45, R176–R181) -/

/-- MOVER_START (R22, R176). -/
def moverStartEntry : Entry := fun c s =>
  match moverOf (byteAt c.payload 1) with
  | none => (s, .reply .badArgument [])
  | some m =>
    let a := wordAt c.payload 2
    let v := s.mover m
    if a.toNat % 8 ≠ 0 then (s, .reply .badArgument [])
    else if v.state ≠ .idle then (s, .reply .wrongState [])
    else
      let t := s.setMover m { v with
        state := .fetching, current := .address a, fault := none, resume := none, completed := 0 }
      (t.requestFetch m a, .reply .ok [])

def execMoverStart (s : State) : Host.Outcome State Fault Refusal :=
  .next (s.takeMgmt (some .moverStart) moverStartEntry notManager).finish

/-- MOVER_STOP at the mover (R32–R35); none where it is refused with WRONG_STATE. -/
def State.stopMover (s : State) (m : MoverId) : Option State :=
  let v := s.mover m
  match v.state with
  | .moving => some ((s.setMover m { v with state := .stopping .element }).discardLookAhead m)
  | .fetching =>
    let t := (s.setMover m { v with state := .stopping .fetch }).withdrawFetch m
    if t.fetcher.owns m then some t else some (t.endList m (some v.currentAddr))
  | .gated => some (s.endList m (some v.currentAddr))
  | .stopping _ => some s
  | .idle | .faulting | .halted | .aborting => none

/-- MOVER_STOP (R177). -/
def moverStopEntry : Entry := fun c s =>
  match moverOf (byteAt c.payload 1) with
  | none => (s, .reply .badArgument [])
  | some m =>
    match s.stopMover m with
    | some t => (t, .reply .ok [])
    | none => (s, .reply .wrongState [])

def execMoverStop (s : State) : Host.Outcome State Fault Refusal :=
  .next (s.takeMgmt (some .moverStop) moverStopEntry notManager).finish

/-- MOVER_RESUME (R31, R178). -/
def moverResumeEntry : Entry := fun c s =>
  match moverOf (byteAt c.payload 1) with
  | none => (s, .reply .badArgument [])
  | some m =>
    match (s.mover m).state, (s.mover m).current with
    | .gated, .element e => (s.completeElement m e, .reply .ok [])
    | _, _ => (s, .reply .wrongState [])

def execMoverResume (s : State) : Host.Outcome State Fault Refusal :=
  .next (s.takeMgmt (some .moverResume) moverResumeEntry notManager).finish

/-- MOVER_ABORT at a mover that is carrying out a list (R43): the withdrawal, unless FAULTING has done it,
and ABORTING, or IDLE at once when the mover is quiet. -/
def State.abortMover (s : State) (m : MoverId) : State × Answer :=
  let s := if (s.mover m).state = .faulting then s else s.withdraw m
  let t := s.setMover m { s.mover m with state := .aborting, resume := none }
  if t.quiet m then (t.setMover m ((t.mover m).rest .idle none), .reply .ok [])
  else (t, .defer (.moverAbort m))

/-- MOVER_ABORT (R43, R179). -/
def moverAbortEntry : Entry := fun c s =>
  match moverOf (byteAt c.payload 1) with
  | none => (s, .reply .badArgument [])
  | some m =>
    let v := s.mover m
    match v.state with
    | .idle => (s, .reply .ok [])
    | .halted => (s.setMover m { v with state := .idle }, .reply .ok [])
    | .fetching | .moving | .gated | .stopping _ | .faulting | .aborting => s.abortMover m

def execMoverAbort (s : State) : Host.Outcome State Fault Refusal :=
  .next (s.takeMgmt (some .moverAbort) moverAbortEntry notManager).finish

/-- MOVER_CLEAR (R44, R180). -/
def moverClearEntry : Entry := fun c s =>
  match moverOf (byteAt c.payload 1) with
  | none => (s, .reply .badArgument [])
  | some m =>
    let v := s.mover m
    if v.state = .halted then (s.setMover m { v with state := .idle }, .reply .ok [])
    else (s, .reply .wrongState [])

def execMoverClear (s : State) : Host.Outcome State Fault Refusal :=
  .next (s.takeMgmt (some .moverClear) moverClearEntry notManager).finish

/-- A bit of a presence set. -/
def presentBit (b : Bool) (bit : Half) : Half := if b then bit else 0

/-- The element record that is current, in MOVER_QUERY. -/
def Mover.element (v : Mover) : Option Element :=
  match v.current with
  | .element e => some e
  | _ => none

/-- The address of the current element, when there is one. -/
def Mover.addr? (v : Mover) : Option Addr :=
  match v.current with
  | .absent => none
  | .address a => some a
  | .element e => some e.addr

/-- Operation codes (R2). -/
def ElemOp.code : ElemOp → Byte
  | .push _ _ => 0x01 | .pull _ => 0x02 | .gate => 0x03

def LookAhead.code : LookAhead → Byte
  | .none => 0x00 | .pending => 0x01 | .held _ => 0x02 | .failed _ _ => 0x03

/-- The presence set of the progress record (R181). -/
def Mover.presence (v : Mover) : Half :=
  presentBit v.addr?.isSome 0x0001 ||| presentBit v.element.isSome 0x0002
    ||| presentBit v.xfer.isSome 0x0004 ||| presentBit v.resume.isSome 0x0008
    ||| presentBit v.fault.isSome 0x0010
    ||| presentBit (v.fault.bind (·.remote)).isSome 0x0020
    ||| presentBit (v.fault.bind (·.tag)).isSome 0x0040
    ||| presentBit (v.fault.bind (·.nak)).isSome 0x0080

/-- A 4-byte field of the record, 0 when absent. -/
def field32 (a : Option (BitVec 32)) : List Byte := le32 (a.getD 0)

/-- A 1-byte field of the record, 0 when absent. -/
def field8 (b : Option Byte) : List Byte := [b.getD 0]

/-- A count in 4 bytes. -/
def count32 (n : Nat) : BitVec 32 := BitVec.ofNat 32 n

/-- The 45 bytes of MOVER_QUERY (R45, R181). -/
def Mover.bytes (v : Mover) : List Byte :=
  [v.state.code, v.state.causeCode] ++ le16 v.presence ++ field32 v.addr?
    ++ field8 (v.element.map (·.op.code))
    ++ field8 (v.xfer.map (fun x => slotByte x.slot))
    ++ field32 (v.xfer.map (fun x => count32 x.byteCount))
    ++ field32 (v.xfer.map (fun _ => count32 v.issued))
    ++ field32 (v.xfer.map (fun _ => count32 v.settled))
    ++ le16 (BitVec.ofNat 16 v.piecesInFlight) ++ [byteOf v.tagsHeld, byteOf v.buffersHeld]
    ++ [v.lookAhead.code] ++ le16 v.completed ++ field32 v.resume
    ++ field8 (v.fault.map (·.kind.code))
    ++ field32 (v.fault.map (·.elemAddr)) ++ field32 (v.fault.bind (·.remote))
    ++ field8 ((v.fault.bind (·.tag)).map (fun t => byteOf t.val))
    ++ field8 (v.fault.bind (·.nak))
    ++ field8 (v.fault.map (fun f => byteOf f.further))

/-- MOVER_QUERY (R45, R181). -/
def moverQueryEntry : Entry := fun c s =>
  match moverOf (byteAt c.payload 1) with
  | none => (s, .reply .badArgument [])
  | some m => (s, .reply .ok (s.mover m).bytes)

def execMoverQuery (s : State) : Host.Outcome State Fault Refusal :=
  .next (s.takeMgmt (some .moverQuery) moverQueryEntry notManager).finish

/-! ### NODE_RESET and unknown commands (R162, R182) -/

/-- NODE_RESET (R182). -/
def nodeResetEntry : Entry := fun _ s => (s, .resetting)

def execNodeReset (s : State) : Host.Outcome State Fault Refusal :=
  .next (s.takeMgmt (some .nodeReset) nodeResetEntry notManager).finish

/-- An unknown code has no entry: execution answers BAD_COMMAND before it (R162). -/
def unknownEntry : Entry := fun _ s => (s, .reply .badCommand [])

/-- UNKNOWN_COMMAND (R160–R162). -/
def execUnknownCommand (s : State) : Host.Outcome State Fault Refusal :=
  .next (s.takeMgmt none unknownEntry notManager).finish

/-! ### The unit's timer and its replies -/

/-- CLAIM_LAPSE (R159). -/
def lapseClaim (s : State) : State :=
  match s.mgmt.claim, s.mgmt.lapseTimer with
  | .claimed m, some t =>
    let s := s.reach t
    { s with mgmt := { s.mgmt with claim := .lapsed m, lapseTimer := none } }
  | _, _ => s

def execClaimLapse (s : State) : Host.Outcome State Fault Refusal := .next (lapseClaim s)

/-- The REPLY cell of a waiting reply, its header formed now (R165, R151). -/
def State.replyCell (s : State) (r : WaitingReply) : ReplyCell :=
  { producer := .management, payload := .bytes r.payload, isReset := r.isReset
    header :=
      { dest := r.dest, source := s.ownByte, kind := Kind.reply.code, origin := r.origin, tag := r.tag
        hops := s.hops, length := byteOf r.payload.length, flags := 0, ringAddr := 0, seq := r.seq
        status := r.status.code } }

/-- MGMT_REPLY_PLACED (R157): a waiting reply is placed when a place is free. -/
def placeMgmtReply (which : ReplySource) (s : State) : State :=
  if s.replyRoom then
    match which, s.mgmt.replyLast, s.mgmt.replyDeferred with
    | .lastTaken, some r, _ =>
      State.placeReply { s with mgmt := { s.mgmt with replyLast := none } } (s.replyCell r)
    | .deferred, _, some r =>
      State.placeReply { s with mgmt := { s.mgmt with replyDeferred := none } } (s.replyCell r)
    | _, _, _ => s
  else s

def execMgmtReplyPlaced (which : ReplySource) (s : State) : Host.Outcome State Fault Refusal :=
  .next (placeMgmtReply which s)

/-! ### The Event Unit's cells (R192, R193) -/

/-- ATTENTION_REPEAT (R193): in SENT the timer expires; with no ATTN waiting a new one is formed with the
same number, and the timer restarts. -/
def repeatAttention (s : State) : State :=
  match s.events.state, s.events.timer with
  | .sent, some t =>
    let s := s.reach t
    let waiting :=
      match s.events.waiting, s.mgmt.claim.manager with
      | some w, _ => some w
      | none, some m =>
        some { dest := m, number := s.events.number, pendingSet := s.events.pendingSet }
      | none, none => none
    { s with events := { s.events with waiting := waiting, timer := s.repeatExpiry } }
  | _, _ => s

def execAttentionRepeat (s : State) : Host.Outcome State Fault Refusal := .next (repeatAttention s)

/-- The ATTN cell (R192). -/
def State.attnCell (s : State) (w : WaitingAttn) : ReplyCell :=
  { producer := .eventUnit, payload := .bytes (le16 w.number ++ le16 w.pendingSet), isReset := false
    header :=
      { dest := slotByte w.dest, source := s.ownByte, kind := Kind.attn.code, origin := 4, tag := 0xFF
        hops := s.hops, length := 4, flags := 0, ringAddr := 0, seq := 0, status := 0 } }

/-- ATTN_PLACED (R192). -/
def placeAttn (s : State) : State :=
  match s.events.waiting with
  | some w =>
    if s.replyRoom then
      State.placeReply { s with events := { s.events with waiting := none } } (s.attnCell w)
    else s
  | none => s

def execAttnPlaced (s : State) : Host.Outcome State Fault Refusal := .next (placeAttn s)

end Sys2Proof.Machine
end

