-- ==== Sys2Proof/Machine/Dispatch.lean ====
section
/-! DEFINITION. The command table: one arm per command, each one call of its meaning. -/

namespace Sys2Proof.Machine

def exec (i : Instr) (s : State) : Host.Outcome State Fault Refusal :=
  match i with
  -- Ring Port
  | .hardReset pins => Sys2Proof.Machine.execHardReset pins s
  | .linkUp => Sys2Proof.Machine.execLinkUp s
  | .linkDown => Sys2Proof.Machine.execLinkDown s
  | .cellReceived frame invalidChar => Sys2Proof.Machine.execCellReceived frame invalidChar s
  | .ringOutChoice downstreamReady => Sys2Proof.Machine.execRingOutChoice downstreamReady s
  | .cellFinished choiceFirst => Sys2Proof.Machine.execCellFinished choiceFirst s
  -- Inbound service
  | .dispatchCell => Sys2Proof.Machine.execDispatchCell s
  | .dispatcherNakPlaced => Sys2Proof.Machine.execDispatcherNakPlaced s
  | .responderBufferTaken => Sys2Proof.Machine.execResponderBufferTaken s
  | .inboundAdmission => Sys2Proof.Machine.execInboundAdmission s
  | .moverQueueWritePlaced => Sys2Proof.Machine.execMoverQueueWritePlaced s
  | .imqReplyPlaced => Sys2Proof.Machine.execImqReplyPlaced s
  -- Card Memory Port
  | .memoryGrant => Sys2Proof.Machine.execMemoryGrant s
  | .memoryAnswer serial answer => Sys2Proof.Machine.execMemoryAnswer serial answer s
  | .memoryTimeout => Sys2Proof.Machine.execMemoryTimeout s
  -- Movers
  | .pushPieceIssue m => Sys2Proof.Machine.execPushPieceIssue m s
  | .trackedPieceIssue m => Sys2Proof.Machine.execTrackedPieceIssue m s
  | .pullPieceIssue m => Sys2Proof.Machine.execPullPieceIssue m s
  | .pushWritePlaced m => Sys2Proof.Machine.execPushWritePlaced m s
  -- Tag Table
  | .tagDeadlineExpiry t => Sys2Proof.Machine.execTagDeadlineExpiry t s
  | .tagQuarantineEnd t => Sys2Proof.Machine.execTagQuarantineEnd t s
  -- Management Unit and Event Unit
  | .claimLapse => Sys2Proof.Machine.execClaimLapse s
  | .mgmtReplyPlaced which => Sys2Proof.Machine.execMgmtReplyPlaced which s
  | .attentionRepeat => Sys2Proof.Machine.execAttentionRepeat s
  | .attnPlaced => Sys2Proof.Machine.execAttnPlaced s
  -- Management commands
  | .claim => Sys2Proof.Machine.execClaim s
  | .release => Sys2Proof.Machine.execRelease s
  | .readStatus => Sys2Proof.Machine.execReadStatus s
  | .readEvents => Sys2Proof.Machine.execReadEvents s
  | .setParams => Sys2Proof.Machine.execSetParams s
  | .windowOpen => Sys2Proof.Machine.execWindowOpen s
  | .windowClose => Sys2Proof.Machine.execWindowClose s
  | .windowQuery => Sys2Proof.Machine.execWindowQuery s
  | .moverStart => Sys2Proof.Machine.execMoverStart s
  | .moverStop => Sys2Proof.Machine.execMoverStop s
  | .moverResume => Sys2Proof.Machine.execMoverResume s
  | .moverAbort => Sys2Proof.Machine.execMoverAbort s
  | .moverClear => Sys2Proof.Machine.execMoverClear s
  | .moverQuery => Sys2Proof.Machine.execMoverQuery s
  | .nodeReset => Sys2Proof.Machine.execNodeReset s
  | .unknownCommand => Sys2Proof.Machine.execUnknownCommand s

end Sys2Proof.Machine
end

