-- ==== Sys2Proof/Safety.lean ====
section
/-! DEFINITION. What counts as a safe run: the states that commands can lead to, the properties that every
step keeps, and the terms in which the statements speak of commands from the manager. -/

namespace Sys2Proof.Machine

/-! ### Runs -/

/-- The states that any sequence of commands can lead to from reset. Commands come from outside and join the
tail of the queue (log 25). -/
inductive Reachable : State → Prop where
  | reset : Reachable State.reset
  | give {s : State} (c : Instr) : Reachable s → Reachable { s with pending := s.pending ++ [c] }
  | next {s t : State} : Reachable s → step s = .next t → Reachable t

/-- Between two steps no occurrence is on its way to the Event Unit, and no fetch is left that could start
(R12). -/
abbrev State.between (s : State) : Prop :=
  s.raised = [] ∧
    (s.fetcher.inFlight = none → s.fetcher.waiting0 = none ∧ s.fetcher.waiting1 = none)

/-! ### Properties that every step keeps -/

/-- Every queue is within its capacity (R91, R111, R114, R122, R143, R146). -/
abbrev State.withinCapacity (s : State) : Prop :=
  s.ring.transit.length ≤ 4 ∧ s.inbound.queue.length ≤ 8 ∧ s.imq.length ≤ 4
    ∧ s.requestQueue.length ≤ 8 ∧ s.replyQueue.length ≤ 8
    ∧ s.mover0.queue.length ≤ 2 ∧ s.mover1.queue.length ≤ 2

/-- The record of card memory keeps its canonical form. -/
abbrev State.memoryWf (s : State) : Prop := memWf s.cardMem = true

/-- No two windows in OPEN or DRAINING have intersecting ring ranges (R67). -/
abbrev State.windowsDisjoint (s : State) : Prop :=
  ∀ i j : WindowNo, i ≠ j → s.windows[i].state ≠ .closed → s.windows[j].state ≠ .closed →
    s.windows[i].ringEnd ≤ s.windows[j].ringBase.toNat
      ∨ s.windows[j].ringEnd ≤ s.windows[i].ringBase.toNat

/-- The head of the Inbound Memory Queue is not QUEUED, and the operations behind it are all QUEUED (R91). -/
abbrev State.inboundStaged (s : State) : Prop :=
  (∀ o ∈ s.imq.take 1, o.stage ≠ .queued) ∧ ∀ o ∈ s.imq.drop 1, o.stage = .queued

/-- A window's in-flight count is the number of operations of the Inbound Memory Queue admitted through it, and
0 when the window is CLOSED (R72). -/
abbrev State.inFlightTrue (s : State) : Prop :=
  ∀ i : WindowNo, s.windows[i].inFlight = s.imq.countP (fun o => o.window = i)
    ∧ (s.windows[i].state = .closed → s.windows[i].inFlight = 0)

/-- The mover that holds a buffer. -/
def Buffer.holdingMover : Buffer → Option MoverId
  | .held (.mover m) _ => some m
  | _ => none

/-- A mover holds the buffer. -/
def Buffer.heldByMover (b : Buffer) : Bool := b.holdingMover.isSome

/-- Number of staging buffers that mover `m` holds. -/
def State.buffersOf (s : State) (m : MoverId) : Nat :=
  s.pool.toList.countP (fun b => b.holdingMover = some m)

/-- Each mover holds the buffers that it counts, at most 4, and none of buffers 6 and 7 (R106). -/
abbrev State.buffersSound (s : State) : Prop :=
  s.mover0.buffersHeld = s.buffersOf .m0 ∧ s.mover1.buffersHeld = s.buffersOf .m1
    ∧ s.buffersOf .m0 ≤ 4 ∧ s.buffersOf .m1 ≤ 4
    ∧ ∀ b : BufNo, 6 ≤ b.val → s.pool[b].heldByMover = false

/-- Each mover counts the WAITING and ABANDONED tags it owns (R47, R64). -/
abbrev State.tagsSound (s : State) : Prop :=
  s.mover0.tagsHeld = s.tagsOwned .m0 ∧ s.mover1.tagsHeld = s.tagsOwned .m1

/-- A window is DRAINING, and a mover ABORTING, exactly while its close or abort is the deferred command
(R43, R76, R163). -/
abbrev State.deferredTrue (s : State) : Prop :=
  (∀ i : WindowNo, s.windows[i].state = .draining
      ↔ s.mgmt.deferred.map (·.target) = some (.windowClose i))
    ∧ (s.mover0.state = .aborting ↔ s.mgmt.deferred.map (·.target) = some (.moverAbort .m0))
    ∧ (s.mover1.state = .aborting ↔ s.mgmt.deferred.map (·.target) = some (.moverAbort .m1))

/-- Every event's count is 0 exactly when the event is not pending, and is never above 255 (R185). -/
abbrev State.recordsSound (s : State) : Prop :=
  ∀ n : Fin 16, s.events.records[n].count ≤ 255
    ∧ (s.events.records[n].pending = true ↔ s.events.records[n].count ≠ 0)

/-- No attention is due, and the repeat timer and a waiting ATTN exist in SENT only (R189, R190). -/
abbrev State.attentionSettled (s : State) : Prop :=
  s.raised = []
    ∧ ¬(s.events.state = .idle ∧ s.mgmt.claim ≠ .unclaimed
        ∧ ∃ n : Fin 16, s.events.records[n].pending = true
            ∧ s.mgmt.params.eventMask.getLsbD n.val = true)
    ∧ (s.events.state = .idle → s.events.timer = none ∧ s.events.waiting = none)

/-- Every parameter is in its range (R166), and the pass counter in its own (R149). -/
abbrev State.paramsInRange (s : State) : Prop :=
  let p := s.mgmt.params
  (1 ≤ p.responseTimeout ∧ p.responseTimeout ≤ 255) ∧ (1 ≤ p.memoryTimeout ∧ p.memoryTimeout ≤ 15)
    ∧ p.attentionRepeat ≤ 255 ∧ p.claimLapse ≤ 255 ∧ (1 ≤ p.passCount ∧ p.passCount ≤ 15)
    ∧ (1 ≤ p.hopLimit ∧ p.hopLimit ≤ 31) ∧ (1 ≤ p.tagLimit0 ∧ p.tagLimit0 ≤ 16)
    ∧ (1 ≤ p.tagLimit1 ∧ p.tagLimit1 ≤ 16) ∧ s.ring.passCounter ≤ 15

/-! ### What a mover's fault or release can change -/

/-- From `s` to `u` only the movers and what they own, the pass counter, the end of a deferred command and the
Event Unit may have changed. -/
abbrev State.actsOnMovers (s u : State) : Prop :=
  u = { s with
    requestQueue := u.requestQueue, pool := u.pool, fetcher := u.fetcher, mover0 := u.mover0
    mover1 := u.mover1, tags := u.tags, ring := { s.ring with passCounter := u.ring.passCounter }
    mgmt :=
      { s.mgmt with
        deferred := u.mgmt.deferred, stored := u.mgmt.stored, replyDeferred := u.mgmt.replyDeferred }
    events := u.events, free := u.free }

/-! ### Who is granted what -/

/-- A buffer that a grant may take: it is FREE, and no cell begun before a reset point still carries its former
payload (R108, R119). -/
abbrev State.bufferFree (s : State) (b : BufNo) : Prop :=
  s.pool[b] = .free ∧ ∀ o ∈ s.ring.out, ¬(o.beforeReset = true ∧ o.source.buffer = some b)

/-- The buffer that the Responder takes: 6, else 7, else the lowest-numbered free one of 0–5 (R97). -/
abbrev State.responderTakes (s : State) (b : BufNo) : Prop :=
  s.bufferFree b ∧ (b = 6 ∨ ¬s.bufferFree 6 ∧ (b = 7 ∨ ¬s.bufferFree 7 ∧ ∀ j, j < b → ¬s.bufferFree j))

/-- The buffer that a mover takes: the lowest-numbered free one of 0–5 (R108). -/
abbrev State.moverTakes (s : State) (b : BufNo) : Prop :=
  s.bufferFree b ∧ b.val ≤ 5 ∧ ∀ j, j < b → ¬s.bufferFree j

/-- The tag that mover `m` takes: the lowest-numbered FREE one, while its WAITING and ABANDONED tags number fewer
than its tag limit (R49, R50). -/
abbrev State.tagTaken (s : State) (m : MoverId) (t : TagNo) : Prop :=
  s.tagsOwned m < s.mgmt.params.tagLimit m ∧ s.tags[t] = .free ∧ ∀ j, j < t → s.tags[j] ≠ .free

/-- No tag is at hand for mover `m` (R49). -/
abbrev State.tagLacking (s : State) (m : MoverId) : Prop :=
  s.mgmt.params.tagLimit m ≤ s.tagsOwned m ∨ ∀ t : TagNo, s.tags[t] ≠ .free

/-- A requester's place in the arbiter's cycle (R123). -/
def Requester.place : Requester → Nat
  | .inbound => 0 | .fetch => 1 | .mover .m0 => 2 | .mover .m1 => 3

/-- How many requesters stand before `r` in the cycle that starts after `last` (R123). -/
abbrev Requester.behind (r last : Requester) : Nat := (r.place + 3 - last.place) % 4

/-- R12: what the start of a fetch makes of `f`. None starts while one is in flight, or with none waiting; with
both movers waiting, the one other than *last served* is taken. -/
abbrev Fetcher.startsAs (f g : Fetcher) : Prop :=
  (f.inFlight ≠ none ∨ f.waiting0 = none ∧ f.waiting1 = none → g = f)
  ∧ (∀ a, f.inFlight = none → f.waiting0 = some a → f.waiting1 = none ∨ f.lastServed = .m1 →
    g = { f with waiting0 := none, lastServed := .m0
                 inFlight := some { mover := .m0, addr := a, discarded := false } })
  ∧ (∀ a, f.inFlight = none → f.waiting1 = some a → f.waiting0 = none ∨ f.lastServed = .m0 →
    g = { f with waiting1 := none, lastServed := .m1
                 inFlight := some { mover := .m1, addr := a, discarded := false } })

/-- The fetcher when mover `m` has requested the element at `a` in a step: the fetch starts at once when none is
in flight, and else waits (R11, R12). Between steps none waits without one in flight. -/
def Fetcher.requested (f : Fetcher) (m : MoverId) (a : Addr) : Fetcher :=
  match f.inFlight with
  | none => { inFlight := some { mover := m, addr := a, discarded := false }, waiting0 := none
              waiting1 := none, lastServed := m }
  | some _ => f.setWaiting m (some a)

/-! ### What a command comes to at the Event Unit -/

/-- What a command answers. -/
abbrev Result := Host.Outcome State Fault Refusal

/-- The occurrences of a command in the state `t` that it leads to: none, one, or two of different blocks, the
second taken first if `swap` (R185; log 11, 27). -/
def State.takes (t : State) (swap : Bool) : Option Event → Option Event → State
  | none, none => t
  | some a, none => t.takeOccurrence a
  | none, some b => t.takeOccurrence b
  | some a, some b => State.takeTwo { t with free := t.free + 1 } swap a b

/-- The command answers `t` with these occurrences taken. -/
abbrev State.answers (t : State) (a b : Option Event) (out : Result) : Prop :=
  ∃ swap : Bool, out = .next (t.takes swap a b)

/-! ### The Inbound Memory Queue -/

/-- The head `o` of the Inbound Memory Queue leaves it, with `rest` behind it, when `t` is the state with all its
other effects and `e` the occurrence beside. The next operation reaches the head, and the window counts one less.
The last operation of a DRAINING window closes it and ends the deferred close, whose OK reply is stored and waits
for a place (R72, R77, R92, R163). -/
abbrev State.headLeaves (t : State) (o : InboundOp) (rest : List InboundOp) (e : Option Event) (out : Result) :
    Prop :=
  let w := t.windows[o.window]
  let left : WindowState → State := fun st =>
    { t with
      imq := presentHead rest
      windows := t.windows.set o.window { w with inFlight := w.inFlight - 1, state := st } }
  (w.state ≠ .draining ∨ 1 < w.inFlight → out = .next ((left w.state).takes false e none))
  ∧ ∀ g : Deferred, w.state = .draining → w.inFlight ≤ 1 → t.mgmt.deferred = some g →
    g.target = .windowClose o.window →
    out = .next (State.takes
      { left .closed with
        mgmt :=
          { t.mgmt with
            deferred := none
            stored := some { payload := [0x07, 0x00], status := .ok }
            replyDeferred := some
              { dest := g.sender, origin := g.origin, tag := g.tag, seq := g.seq, status := .ok
                payload := [0x07, 0x00], isReset := false } } } false e none)

/-! ### Movers: completion, drain, discarded fetches, faults -/

/-- The current element of the mover lies at `a`. -/
abbrev Mover.currentAt (v : Mover) (a : Addr) : Prop :=
  v.current = .address a ∨ ∃ e, v.current = .element e ∧ e.addr = a

/-- The mover finishes pieces: MOVING, or STOPPING with cause ELEMENT. -/
abbrev Mover.finishing (v : Mover) : Prop := v.state = .moving ∨ v.state = .stopping .element

/-- The mover drains: FAULTING or ABORTING. -/
abbrev Mover.drains (v : Mover) : Prop := v.state = .faulting ∨ v.state = .aborting

/-- The mover's record with the fault `f`: the first one is written, a later one only counted, up to 255 (R36). -/
def Mover.withFault (v : Mover) (f : FaultRecord) : Mover :=
  { v with fault := some (match v.fault with
      | none => f
      | some r => { r with further := min 255 (r.further + 1) }) }

/-- The mover's record when its list is over, in `st`; the element's counts are 0 then (log 19). -/
abbrev Mover.ended (v : Mover) (st : MoverState) (resume : Option Addr) : Mover :=
  { v with
    state := st, current := .absent, nextPiece := none, issued := 0, settled := 0, resume := resume }

/-- The completion of the current element `e` of mover `m`, when `t` is the state with its last piece settled: it is
counted, and raises MOVERn_NOTIFY if asked. The list ends in IDLE with MOVERn_DONE when the element does not chain,
or in STOPPING with no fetch of the mover's own; in STOPPING with one the mover stays, its resume address set (log
23) and the completed element still the current one (log 30). In MOVING an element that chains is followed by what
the look-ahead slot holds: FETCHING while it is PENDING; a HELD PUSH or PULL in MOVING, with its own look-ahead
requested when it chains; a HELD GATE in GATED with MOVERn_GATE; HALTED with a FAILED one's fault (R15, R16, R17,
R23, R30, R33). -/
abbrev State.completes (t : State) (m : MoverId) (e : Element) (out : Result) : Prop :=
  let w := t.mover m
  let done := { w with
    current := .absent, nextPiece := none, issued := 0, settled := 0, completed := w.completed + 1 }
  let notified : State → State := fun u => if e.notify then u.takeOccurrence (.moverNotify m) else u
  (w.state = .moving ∧ (e.stopAfter = true ∨ e.next = none)
      ∨ w.state = .stopping .element ∧ t.fetcher.owns m = false →
    out = .next ((notified (t.setMover m
      { done with state := .idle, resume := e.next })).takeOccurrence (.moverDone m)))
  ∧ (w.state = .stopping .element → t.fetcher.owns m = true →
    out = .next (notified (t.setMover m { w with completed := w.completed + 1, resume := e.next })))
  ∧ ∀ a, w.state = .moving → e.stopAfter = false → e.next = some a →
    (w.lookAhead = .pending → out = .next (notified (t.setMover m
      { done with state := .fetching, current := .address a, lookAhead := .none })))
    ∧ (∀ f, w.lookAhead = .held f → f.op ≠ .gate → f.stopAfter = true ∨ f.next = none →
      out = .next (notified (t.setMover m
        { done with
          state := .moving, current := .element f, nextPiece := some 1, lookAhead := .none })))
    ∧ (∀ f b, w.lookAhead = .held f → f.op ≠ .gate → f.stopAfter = false → f.next = some b →
      out = .next (notified (State.setMover { t with fetcher := t.fetcher.requested m b } m
        { done with
          state := .moving, current := .element f, nextPiece := some 1, lookAhead := .pending })))
    ∧ (∀ f, w.lookAhead = .held f → f.op = .gate →
      out = .next ((notified (t.setMover m
        { done with state := .gated, current := .element f, lookAhead := .none })).takeOccurrence
          (.moverGate m)))
    ∧ (∀ k r, w.lookAhead = .failed k r → w.fault = none →
      out = .next ((notified (t.setMover m
        { done with
          state := .halted, resume := none, lookAhead := .none
          fault := some { kind := k, elemAddr := r, remote := none, tag := none, nak := none
                          further := 0 } })).takeOccurrence (.moverHalted m)))

/-- The mover is quiet, by the five conditions of R39. -/
abbrev State.isQuiet (s : State) (m : MoverId) : Prop :=
  (∀ t : TagNo, s.tags[t].owner ≠ some m)
  ∧ ((s.mover m).queue = [] ∧ (s.mover m).pendingWrites = 0)
  ∧ (∀ c ∈ s.requestQueue, c.mover ≠ m)
  ∧ (∀ b : BufNo, s.pool[b].holdingMover ≠ some m)
  ∧ (s.fetcher.waiting m = none ∧ ∀ f ∈ s.fetcher.inFlight, f.mover ≠ m)

/-- The release of something that the draining mover `m` owned, when `t` is the state with it released and `e` the
occurrence that the command raises beside. If the mover is quiet now, FAULTING goes to HALTED with MOVERn_HALTED,
and ABORTING to IDLE without an event, with the deferred abort's OK reply stored and waiting; else it drains on
(R39, R163). -/
abbrev State.released (t : State) (m : MoverId) (e : Option Event) (out : Result) : Prop :=
  let v := t.mover m
  (v.state = .faulting → t.isQuiet m →
    (t.setMover m (v.ended .halted none)).answers e (some (.moverHalted m)) out)
  ∧ (∀ g : Deferred, v.state = .aborting → t.isQuiet m → t.mgmt.deferred = some g →
    g.target = .moverAbort m →
    State.answers
      { t.setMover m (v.ended .idle none) with
        mgmt :=
          { t.mgmt with
            deferred := none
            stored := some { payload := [0x0C, 0x00], status := .ok }
            replyDeferred := some
              { dest := g.sender, origin := g.origin, tag := g.tag, seq := g.seq, status := .ok
                payload := [0x0C, 0x00], isReset := false } } } e none out)
  ∧ (¬t.isQuiet m → t.answers e none out)

/-- Tag `t` stands on a cell of mover `m` in the Request Queue, or on a PUSH read in its memory queue: its request
has not been sent (R63). -/
abbrev State.unsent (s : State) (m : MoverId) (t : TagNo) : Prop :=
  (∃ c ∈ s.requestQueue, c.mover = m ∧ c.header.tag = byteOf t.val)
  ∨ ∃ o ∈ (s.mover m).queue, ∃ b : BufNo, o.kind = .read b (some t)

/-- The operation is a PUSH read that has ended and waits for a Request Queue place. -/
abbrev MemOp.waitsFilled (o : MemOp) : Prop :=
  o.stage = .filled ∧ ∃ (b : BufNo) (t : Option TagNo), o.kind = .read b t

/-- A withdrawal of mover `m` frees buffer `b`: that of a cell of its own in the Request Queue, or of a PUSH read
that waits at the head of its memory queue (R109). -/
abbrev State.givesUp (s : State) (m : MoverId) (b : BufNo) : Prop :=
  (∃ c ∈ s.requestQueue, c.mover = m ∧ c.buffer = some b)
  ∨ ∃ o ∈ (s.mover m).queue.head?, o.stage = .filled ∧ ∃ t : Option TagNo, o.kind = .read b t

/-- In `u` mover `m` has withdrawn, and in `s` not yet (R14, R18, R38, R63, R109, R113, R149). Its cells have left
the Request Queue, and the other mover's stay in their order. A WAITING tag whose request was not sent is FREE; every
other WAITING tag of `m` is ABANDONED, with its fields and its deadline; all others are as they were. The buffers of
what is given up are FREE, and all others as they were. A FILLED read has left the head of its memory queue, and the
other operations stay, without their tags. The look-ahead is discarded, and the fetch withdrawn. The other mover is
as it was; its counts of tags and buffers are so when no cell or read of `m` carries a tag or buffer of its. -/
abbrev State.withdrawn (s u : State) (m : MoverId) : Prop :=
  u.requestQueue = s.requestQueue.filter (fun c => c.mover ≠ m)
  ∧ (∀ t : TagNo,
    (∀ i, s.tags[t] = .waiting i none → s.unsent m t → u.tags[t] = .free)
    ∧ (∀ i d, s.tags[t] = .waiting i d → i.origin = m → d ≠ none ∨ ¬s.unsent m t →
      u.tags[t] = .abandoned i d)
    ∧ ((∀ i d, s.tags[t] = .waiting i d → i.origin ≠ m ∧ (d ≠ none ∨ ¬s.unsent m t)) →
      u.tags[t] = s.tags[t]))
  ∧ (∀ b : BufNo, (s.givesUp m b → u.pool[b] = .free) ∧ (¬s.givesUp m b → u.pool[b] = s.pool[b]))
  ∧ (let q := (s.mover m).queue
     (u.mover m).queue = (if ∃ o ∈ q.head?, o.waitsFilled then q.tail else q).map (fun o =>
       { o with kind := match o.kind with
         | .read b _ => .read b none
         | .write payload => .write payload }))
  ∧ (u.mover m).lookAhead = .none
  ∧ u.fetcher = { s.fetcher.setWaiting m none with
      inFlight := s.fetcher.inFlight.map (fun f => if f.mover = m then { f with discarded := true } else f) }
  ∧ u.ring.passCounter = (if u.requestQueue = [] ∧ u.replyQueue = [] then 0 else s.ring.passCounter)
  ∧ ∀ n : MoverId, n ≠ m →
    u.mover n = { s.mover n with tagsHeld := (u.mover n).tagsHeld, buffersHeld := (u.mover n).buffersHeld }
    ∧ ((∀ t : TagNo, s.unsent m t → s.tags[t].owner ≠ some n) →
       (∀ b : BufNo, s.givesUp m b → s.pool[b].holdingMover ≠ some n) → u.mover n = s.mover n)

/-- What the fault `f` comes to in a mover `m` that finishes pieces and has no fault record yet, when `t` is the
state with the piece concerned given up and `e` the occurrence that the command raises beside. The mover records the
fault, withdraws, and is FAULTING, or HALTED with MOVERn_HALTED when it is quiet at once; no other event is raised,
and nothing changes but the movers and what they own, the pass counter and the Event Unit (R36, R37, R38, R39). -/
abbrev State.faults (t : State) (m : MoverId) (f : FaultRecord) (e : Option Event) (out : Result) : Prop :=
  ∃ u, out = .next u ∧ t.actsOnMovers u ∧ u.mgmt = t.mgmt ∧ t.withdrawn u m
    ∧ (u.mover m).fault = some f
    ∧ (u.isQuiet m → (u.mover m).state = .halted ∧ (u.mover m).resume = none)
    ∧ (¬u.isQuiet m → (u.mover m).state = .faulting)
    ∧ ∀ n : Fin 16, u.events.records[n] =
        if (∃ x ∈ e, x.number = n) ∨ u.isQuiet m ∧ n = (Event.moverHalted m).number then
          { pending := true, count := min 255 (t.events.records[n].count + 1) }
        else t.events.records[n]

/-- The end of a discarded fetch of mover `m`, when `t` is the state without it, in which the next fetch has
started, and `e` the occurrence beside. STOPPING with cause FETCH goes to IDLE with the address as resume address
and MOVERn_DONE; so does STOPPING with cause ELEMENT once its element has completed, and until then it stays;
FAULTING and ABORTING may be quiet by it (R13, R33, R34, R39). -/
abbrev State.discardEnds (t : State) (m : MoverId) (e : Option Event) (out : Result) : Prop :=
  let v := t.mover m
  (∀ a, v.state = .stopping .fetch → v.current = .address a →
    (t.setMover m (v.ended .idle (some a))).answers e (some (.moverDone m)) out)
  ∧ (∀ el x, v.state = .stopping .element → v.current = .element el → el.xfer = some x →
    (v.settled = x.byteCount →
      (t.setMover m (v.ended .idle v.resume)).answers e (some (.moverDone m)) out)
    ∧ (v.settled ≠ x.byteCount → t.answers e none out))
  ∧ (v.drains → t.released m e out)

/-- The failure of the fetch `f`, when `t` is the state without it, in which the next fetch has started: with
MEMORY_ERROR, a mover in FETCHING takes FETCH_MEMORY and halts, one in MOVING has its look-ahead FAILED, and a
discarded fetch gives no fault (R13, R16, R23, R128). -/
abbrev State.fetchFails (t : State) (f : Fetch) (out : Result) : Prop :=
  let v := t.mover f.mover
  (f.discarded = false → v.state = .fetching → v.fault = none →
    (t.setMover f.mover
      { v.ended .halted none with
        fault := some { kind := .fetchMemory, elemAddr := f.addr, remote := none, tag := none, nak := none
                        further := 0 } }).answers (some .memoryError) (some (.moverHalted f.mover)) out)
  ∧ (f.discarded = false → v.state = .moving →
    out = .next ((t.setMover f.mover { v with lookAhead := .failed .fetchMemory f.addr }).takeOccurrence
      .memoryError))
  ∧ (f.discarded = true → t.discardEnds f.mover (some .memoryError) out)

/-! ### Tags that a response or an orphan can find -/

/-- The entry has the fields `i`, and its request has been sent: WAITING or ABANDONED with its deadline present,
or QUARANTINED (R53, R62). -/
abbrev Tag.sentAs (x : Tag) (i : TagInfo) : Prop :=
  (∃ d, x = .waiting i (some d)) ∨ (∃ d, x = .abandoned i (some d)) ∨ ∃ e, x = .quarantined i e

/-! ### The figures that queries return -/

/-- Mover state codes (R170). -/
def MoverState.figure : MoverState → Byte
  | .idle => 0x00 | .fetching => 0x01 | .moving => 0x02 | .gated => 0x03
  | .stopping _ => 0x04 | .faulting => 0x05 | .halted => 0x06 | .aborting => 0x07

/-- Number of tags that `p` picks. -/
abbrev State.tagCount (s : State) (p : Tag → Bool) : Byte :=
  byteOf ((List.finRange 16).countP (fun t => p s.tags[t]))

/-- The 22 bytes `r` that READ_STATUS returns in `s` (R170). -/
abbrev State.statusReads (s : State) (r : List Byte) : Prop :=
  r.length = 22
  ∧ byteAt r 0 = slotByte s.ring.ownSlot
  ∧ byteAt r 1 = (if s.ring.link = .up then 1 else 0)
  ∧ (s.mgmt.claim = .unclaimed → byteAt r 2 = 0 ∧ byteAt r 3 = 0xFF)
  ∧ (∀ m, s.mgmt.claim = .claimed m → byteAt r 2 = 1 ∧ byteAt r 3 = slotByte m)
  ∧ (∀ m, s.mgmt.claim = .lapsed m → byteAt r 2 = 2 ∧ byteAt r 3 = slotByte m)
  ∧ byteAt r 4 = s.mover0.state.figure ∧ byteAt r 5 = s.mover1.state.figure
  ∧ byteAt r 6 = byteOf ((List.finRange 16).countP (fun i => s.windows[i].state = .opened))
  ∧ byteAt r 7 = s.tagCount (fun | .free => true | _ => false)
  ∧ byteAt r 8 = s.tagCount (fun | .waiting _ _ => true | _ => false)
  ∧ byteAt r 9 = s.tagCount (fun | .abandoned _ _ => true | _ => false)
  ∧ byteAt r 10 = s.tagCount (fun | .quarantined _ _ => true | _ => false)
  ∧ byteAt r 11 = byteOf ((List.finRange 8).countP (fun b => s.bufferFree b))
  ∧ byteAt r 12 = byteOf s.ring.transit.length ∧ byteAt r 13 = byteOf s.inbound.queue.length
  ∧ byteAt r 14 = byteOf s.imq.length ∧ byteAt r 15 = byteOf s.replyQueue.length
  ∧ byteAt r 16 = byteOf s.requestQueue.length
  ∧ byteAt r 17 = (if s.events.state = .sent then 1 else 0) ∧ halfAt r 18 = s.events.number
  ∧ (s.mgmt.lastSeq = none → byteAt r 20 = 0 ∧ byteAt r 21 = 0)
  ∧ (∀ q, s.mgmt.lastSeq = some q → byteAt r 20 = 1 ∧ byteAt r 21 = q)

/-- The 24 bytes `r` that WINDOW_QUERY returns of a window (R79, R175). -/
abbrev Window.reads (w : Window) (r : List Byte) : Prop :=
  r.length = 24
  ∧ byteAt r 0 = (if w.state = .closed then 0 else if w.state = .opened then 1 else 2)
  ∧ wordAt r 1 = w.ringBase ∧ byteAt r 5 = byteOf w.sizeExp ∧ wordAt r 6 = w.cardBase
  ∧ (byteAt r 10).toNat = (if w.canRead then 1 else 0) + (if w.canWrite then 2 else 0)
  ∧ wordAt r 11 = w.mask ∧ byteAt r 15 = byteOf w.inFlight
  ∧ wordAt r 16 = w.accepted ∧ wordAt r 20 = w.refused

/-- The codes of the nine fault kinds (R181). -/
def FaultKind.figure : FaultKind → Byte
  | .elementCheck => 0x01 | .elementFormat => 0x02 | .fetchMemory => 0x03 | .dataMemory => 0x04
  | .noTaker => 0x05 | .responseTimeout => 0x06 | .remoteRefused => 0x07 | .dataCorrupt => 0x08
  | .dataLength => 0x09

/-- The 45 bytes `r` that MOVER_QUERY returns of a mover: every field at its place, 0 when it is absent, with the
presence set saying which are present (R45, R181). -/
abbrev Mover.reads (v : Mover) (r : List Byte) : Prop :=
  let has := fun n : Nat => (halfAt r 2).getLsbD n
  r.length = 45
  ∧ byteAt r 0 = v.state.figure
  ∧ byteAt r 1 = (if v.state = .stopping .element then 1 else if v.state = .stopping .fetch then 2 else 0)
  ∧ (halfAt r 2).toNat < 0x100
  ∧ (v.current = .absent → has 0 = false ∧ has 1 = false ∧ wordAt r 4 = 0 ∧ byteAt r 8 = 0)
  ∧ (∀ a, v.current = .address a → has 0 = true ∧ has 1 = false ∧ wordAt r 4 = a ∧ byteAt r 8 = 0)
  ∧ (∀ e, v.current = .element e → has 0 = true ∧ has 1 = true ∧ wordAt r 4 = e.addr
      ∧ (∀ x ack, e.op = .push x ack → byteAt r 8 = 1) ∧ (∀ x, e.op = .pull x → byteAt r 8 = 2)
      ∧ (e.op = .gate → byteAt r 8 = 3))
  ∧ (∀ x, v.xfer = some x → has 2 = true ∧ byteAt r 9 = slotByte x.slot
      ∧ wordAt r 10 = BitVec.ofNat 32 x.byteCount ∧ wordAt r 14 = BitVec.ofNat 32 v.issued
      ∧ wordAt r 18 = BitVec.ofNat 32 v.settled)
  ∧ (v.xfer = none → has 2 = false ∧ byteAt r 9 = 0 ∧ wordAt r 10 = 0 ∧ wordAt r 14 = 0
      ∧ wordAt r 18 = 0)
  ∧ halfAt r 22 = BitVec.ofNat 16 v.piecesInFlight ∧ byteAt r 24 = byteOf v.tagsHeld
  ∧ byteAt r 25 = byteOf v.buffersHeld
  ∧ (v.lookAhead = .none → byteAt r 26 = 0) ∧ (v.lookAhead = .pending → byteAt r 26 = 1)
  ∧ (∀ e, v.lookAhead = .held e → byteAt r 26 = 2)
  ∧ (∀ k a, v.lookAhead = .failed k a → byteAt r 26 = 3)
  ∧ halfAt r 27 = v.completed
  ∧ has 3 = v.resume.isSome ∧ wordAt r 29 = v.resume.getD 0
  ∧ (v.fault = none → has 4 = false ∧ has 5 = false ∧ has 6 = false ∧ has 7 = false
      ∧ byteAt r 33 = 0 ∧ wordAt r 34 = 0 ∧ wordAt r 38 = 0 ∧ byteAt r 42 = 0 ∧ byteAt r 43 = 0
      ∧ byteAt r 44 = 0)
  ∧ (∀ f, v.fault = some f → has 4 = true ∧ byteAt r 33 = f.kind.figure ∧ wordAt r 34 = f.elemAddr
      ∧ byteAt r 44 = byteOf f.further
      ∧ has 5 = f.remote.isSome ∧ wordAt r 38 = f.remote.getD 0
      ∧ has 6 = f.tag.isSome ∧ byteAt r 42 = (f.tag.map (fun t => byteOf t.val)).getD 0
      ∧ has 7 = f.nak.isSome ∧ byteAt r 43 = f.nak.getD 0)

/-! ### Commands from the manager -/

/-- The Dispatcher holds the MGMT cell `c` for the Management Unit, which can take it (R88, R157). -/
abbrev State.offers (s : State) (c : RxCell) : Prop :=
  s.inbound.hand = some .management ∧ s.inbound.queue.head? = some c ∧ s.mgmt.mode = .ready
    ∧ s.mgmt.replyLast = none ∧ s.mgmt.replyDeferred = none

/-- The cell that the Management Unit can take is a new command from the manager, slot `m`: none is deferred,
and its sequence is not that of a stored reply (R158, R161 case 3). -/
abbrev State.newCommand (s : State) (c : RxCell) (m : Slot) : Prop :=
  s.offers c ∧ s.mgmt.claim.manager = some m ∧ c.header.source = slotByte m ∧ s.mgmt.deferred = none
    ∧ (s.mgmt.stored = none ∨ s.mgmt.lastSeq ≠ some c.header.seq)

/-- The expiry of a lapse timer restarted at `now` with the claim lapse `n` (R159). -/
def lapseExpiry (now : Time) (n : Nat) : Option Time := if n = 0 then none else some (now + 100000 * n)

/-- The reply to cell `c` that waits for a place in the Reply Queue (R165). -/
def RxCell.waitingReply (c : RxCell) (st : Status) (results : List Byte) (isReset : Bool) : WaitingReply :=
  { dest := c.header.source, origin := c.header.origin, tag := c.header.tag, seq := c.header.seq
    status := st, payload := byteAt c.payload 0 :: st.code :: results, isReset := isReset }

/-- The Management Unit after it has executed the new command `c` of the manager `m` with an immediate
reply: the claim is CLAIMED, the lapse timer restarts, the reply is stored and waits (R158, R159, R162). -/
def Mgmt.answered (g : Mgmt) (now : Time) (c : RxCell) (m : Slot) (st : Status) (results : List Byte) :
    Mgmt :=
  { g with
    claim := .claimed m
    lapseTimer := lapseExpiry now g.params.claimLapse
    lastSeq := some c.header.seq
    stored := some { payload := byteAt c.payload 0 :: st.code :: results, status := st }
    replyLast := some (c.waitingReply st results false) }

/-- The cell in hand has been taken: it has left the Receive Queue (R82). -/
def Inbound.taken (b : Inbound) : Inbound := { queue := b.queue.tail, hand := none }

/-- The state after the new command `c` of the manager `m` has been executed with an immediate reply and no
other effect. -/
def State.answered (s : State) (c : RxCell) (m : Slot) (st : Status) (results : List Byte) : State :=
  { s with inbound := s.inbound.taken, mgmt := s.mgmt.answered s.now c m st results }

/-- The state after the new command `c` of the manager `m` has been deferred (R163). -/
def State.deferredBy (s : State) (c : RxCell) (m : Slot) (target : DeferTarget) : State :=
  { s with
    inbound := s.inbound.taken
    mgmt :=
      { s.mgmt with
        claim := .claimed m
        lapseTimer := lapseExpiry s.now s.mgmt.params.claimLapse
        lastSeq := some c.header.seq, stored := none
        deferred := some
          { target := target, seq := c.header.seq, sender := c.header.source
            origin := c.header.origin, tag := c.header.tag } } }

/-- A reply to cell `c` that is sent and not stored, with no other effect (R160, R161). -/
def State.sentOnly (s : State) (c : RxCell) (st : Status) (results : List Byte) : State :=
  { s with
    inbound := s.inbound.taken
    mgmt := { s.mgmt with replyLast := some (c.waitingReply st results false) } }

end Sys2Proof.Machine

namespace Sys2Proof

open Machine in
/-- The management command that a command of the part takes from the Dispatcher's hand: `some none` for
UNKNOWN_COMMAND, which takes an unknown code or an empty payload. -/
def Instr.managed : Instr → Option (Option Command)
  | .claim => some (some .claim)
  | .release => some (some .release)
  | .readStatus => some (some .readStatus)
  | .readEvents => some (some .readEvents)
  | .setParams => some (some .setParams)
  | .windowOpen => some (some .windowOpen)
  | .windowClose => some (some .windowClose)
  | .windowQuery => some (some .windowQuery)
  | .moverStart => some (some .moverStart)
  | .moverStop => some (some .moverStop)
  | .moverResume => some (some .moverResume)
  | .moverAbort => some (some .moverAbort)
  | .moverClear => some (some .moverClear)
  | .moverQuery => some (some .moverQuery)
  | .nodeReset => some (some .nodeReset)
  | .unknownCommand => some none
  | _ => none

end Sys2Proof
end

