-- ==== Sys2Proof/Certificates/Slice0/Obligations.lean ====
section
/-! DEFINITION. The statements for the provers. Each says what one command, or the machine, does. -/

section Statements

open Sys2Proof Sys2Proof.Machine

/-! ### The machine, and reset -/

/-- A step with a command at the front of the queue is that command on the state with the queue's rest. -/
def Obligations.StepTakesFrontCommand : Prop :=
  ∀ (c : Instr) (s : State), step { s with pending := c :: s.pending } = exec c s

/-- What the part holds right after reset, block by block (R19, R46, R65, R81, R104, R118, R131, R154, R184,
R196). The own slot 0, the time 0, the serial 0 and the empty record of card memory are the model's own (log 2,
4, 5, 7). -/
def Obligations.StateAtReset : Prop :=
  let s := State.reset
  (s.ring.ownSlot = 0 ∧ s.ring.link = .down ∧ s.ring.transit = [] ∧ s.ring.passCounter = 0
      ∧ s.ring.out = none)
    ∧ (s.inbound.queue = [] ∧ s.inbound.hand = none ∧ s.imq = [])
    ∧ (∀ i : WindowNo, s.windows[i] =
        { state := .closed, ringBase := 0, sizeExp := 0, cardBase := 0, canRead := false
          canWrite := false, mask := 0, inFlight := 0, accepted := 0, refused := 0 })
    ∧ ((∀ b : BufNo, s.pool[b] = .free) ∧ s.requestQueue = [] ∧ s.replyQueue = [])
    ∧ (s.fetcher.inFlight = none ∧ s.fetcher.waiting0 = none ∧ s.fetcher.waiting1 = none
        ∧ s.fetcher.lastServed = .m1)
    ∧ (s.mover0 =
        { state := .idle, current := .absent, nextPiece := none, issued := 0, settled := 0
          piecesInFlight := 0, tagsHeld := 0, buffersHeld := 0, pendingWrites := 0, fault := none
          resume := none, completed := 0, lookAhead := .none, queue := [] }
        ∧ s.mover1 = s.mover0)
    ∧ (∀ t : TagNo, s.tags[t] = .free)
    ∧ s.port = { inFlight := none, lastServed := .mover .m1, nextSerial := 0 }
    ∧ (s.mgmt.mode = .ready ∧ s.mgmt.claim = .unclaimed ∧ s.mgmt.lapseTimer = none
        ∧ s.mgmt.lastSeq = none ∧ s.mgmt.stored = none ∧ s.mgmt.deferred = none
        ∧ s.mgmt.replyLast = none ∧ s.mgmt.replyDeferred = none)
    ∧ s.mgmt.params =
        { responseTimeout := 32, memoryTimeout := 4, attentionRepeat := 50, claimLapse := 0
          passCount := 4, hopLimit := 31, tagLimit0 := 8, tagLimit1 := 8, eventMask := 0xFFFF }
    ∧ ((∀ n : Fin 16, s.events.records[n] = { pending := false, count := 0 })
        ∧ s.events.state = .idle ∧ s.events.number = 0 ∧ s.events.timer = none
        ∧ s.events.waiting = none)
    ∧ (s.cardMem = [] ∧ s.now = 0 ∧ s.pending = [])

/-- HARD_RESET gives every block its reset value, with the own slot from the pins, in every state. It keeps the
model's own fields (log 24) and card memory, but for the range of a write that it cuts off. -/
def Obligations.HardResetState : Prop :=
  ∀ (pins : Slot) (s : State), ∃ t, exec (.hardReset pins) s = .next t
    ∧ t = { State.reset with
        ring := { ownSlot := pins, link := .down, transit := [], passCounter := 0, out := none }
        port := { inFlight := none, lastServed := .mover .m1, nextSerial := s.port.nextSerial }
        cardMem := t.cardMem, now := s.now, free := t.free, pending := s.pending }
    ∧ ∀ a : Nat,
        (∀ p bs, s.port.inFlight = some p → p.dir = .write bs →
          ¬(p.cardAddr.toNat ≤ a ∧ a < p.cardAddr.toNat + bs.length)) →
        memGet t.cardMem a = memGet s.cardMem a

/-- R118: after a hard reset every staging buffer is FREE, both outbound queues are empty, no holder counts a
buffer, and no placing waits at either queue. -/
def Obligations.HardResetEmptiesQueues : Prop :=
  ∀ (pins : Slot) (s : State), ∃ t, exec (.hardReset pins) s = .next t
    ∧ (∀ b : BufNo, t.pool[b] = .free)
    ∧ t.requestQueue = [] ∧ t.replyQueue = []
    ∧ t.mover0.buffersHeld = 0 ∧ t.mover1.buffersHeld = 0
    ∧ t.mover0.queue = [] ∧ t.mover1.queue = []
    ∧ t.imq = [] ∧ t.inbound.hand = none
    ∧ t.mgmt.replyLast = none ∧ t.mgmt.replyDeferred = none ∧ t.events.waiting = none
    ∧ t.ring.out = none

/-! ### The Event Unit -/

/-- The taking of an occurrence sets the event's pending flag and increases its saturating count; every other
record, and everything but the Event Unit, is unchanged (R185). -/
def Obligations.OccurrenceIsRecorded : Prop :=
  ∀ (s : State) (e : Event),
    let t := s.takeOccurrence e
    t = { s with events := t.events }
      ∧ t.events.records[e.number] =
          { pending := true, count := min 255 (s.events.records[e.number].count + 1) }
      ∧ ∀ n : Fin 16, n ≠ e.number → t.events.records[n] = s.events.records[n]

/-- Attention is raised by an occurrence exactly when the state is IDLE, a manager is present and an unmasked
event is pending: the number increases, the state becomes SENT, the repeat timer starts, and an ATTN to the
manager waits with the pending set of that moment. Otherwise the attention record is unchanged (R189, R190,
R192, R193). -/
def Obligations.AttentionIsRaised : Prop :=
  ∀ (s : State) (e : Event),
    let t := s.takeOccurrence e
    let unmasked := ∃ n : Fin 16, t.events.records[n].pending = true
      ∧ s.mgmt.params.eventMask.getLsbD n.val = true
    let n := s.mgmt.params.attentionRepeat
    (∀ m : Slot, s.events.state = .idle → s.mgmt.claim.manager = some m → unmasked →
      t.events.state = .sent ∧ t.events.number = s.events.number + 1
        ∧ t.events.timer = (if n = 0 then none else some (s.now + 1000 * n))
        ∧ ∃ w, t.events.waiting = some w ∧ w.dest = m ∧ w.number = s.events.number + 1
            ∧ ∀ k : Fin 16, w.pendingSet.getLsbD k.val = t.events.records[k].pending)
    ∧ (¬(s.events.state = .idle ∧ s.mgmt.claim ≠ .unclaimed ∧ unmasked) →
      t.events = { s.events with records := t.events.records })

/-! ### Ring-in -/

/-- LINK_UP and LINK_DOWN change the link state and raise LINK_CHANGE; in the state that they lead to they
change nothing (R139). That a command in the state it leads to changes nothing is the model's choice (log 1). -/
def Obligations.LinkChanges : Prop :=
  ∀ s : State, s.between →
    (s.ring.link = .down → exec .linkUp s =
      .next (State.takeOccurrence { s with ring := { s.ring with link := .up } } .linkChange))
    ∧ (s.ring.link = .up → exec .linkDown s =
      .next (State.takeOccurrence { s with ring := { s.ring with link := .down } } .linkChange))
    ∧ (s.ring.link = .up → exec .linkUp s = .next s)
    ∧ (s.ring.link = .down → exec .linkDown s = .next s)

/-- A frame is damaged exactly when it is too short, its header check fails, its size is not the extent that its
header gives, or it holds an invalid line character (R133, R141). -/
def Obligations.DamagedFrames : Prop :=
  ∀ (frame : List Byte) (invalidChar : Bool),
    let kind := byteAt frame 2
    let n := (byteAt frame 6).toNat
    let carries := kind = 1 ∨ kind = 3 ∨ kind = 6 ∨ kind = 7 ∨ kind = 8
    let sized := if carries ∧ 1 ≤ n then n ≤ 64 ∧ frame.length = 18 + n else frame.length = 16
    damaged frame invalidChar = true ↔
      frame.length < 16 ∨ checkCode (frame.take 14) ≠ halfAt frame 14 ∨ ¬sized ∨ invalidChar = true

/-- The disposition of a received cell by the ordered tests of R142, while ring-in is UP and ready; an orphan
that is a READ or a WRITE is left to `OrphanNotice`. While ring-in is DOWN no cell is received (R139). A whole
cell while ring-in is UP and shows not ready, which R140 keeps upstream from, is the model's one fault (log 8). -/
def Obligations.CellDisposition : Prop :=
  ∀ (s : State) (frame : List Byte) (bad : Bool), s.between →
    let h := Header.ofBytes frame
    let own := slotByte s.ring.ownSlot
    let p := framePayload frame
    (s.ring.link = .down → exec (.cellReceived frame bad) s = .next s)
    ∧ (s.ring.link = .up → 4 ≤ s.ring.transit.length ∨ 8 ≤ s.inbound.queue.length →
      exec (.cellReceived frame bad) s = .fault .ringInOverrun)
    ∧ (s.ring.link = .up → s.ring.transit.length < 4 → s.inbound.queue.length < 8 →
    (damaged frame bad = true →
      exec (.cellReceived frame bad) s = .next (s.takeOccurrence .cellError))
    ∧ (damaged frame bad = false → h.dest = own →
      exec (.cellReceived frame bad) s = .next
        { s with inbound :=
          { s.inbound with queue := s.inbound.queue ++
            [{ header := h, payload := p
               good := p = [] || checkCode p = halfAt frame (16 + p.length) }] } })
    ∧ (damaged frame bad = false → h.dest ≠ own → h.source = own → h.kind ≠ 1 → h.kind ≠ 2 →
      exec (.cellReceived frame bad) s = .next (s.takeOccurrence .cellDropped))
    ∧ (damaged frame bad = false → h.dest ≠ own → h.source ≠ own → h.hops = 0 →
      exec (.cellReceived frame bad) s = .next (s.takeOccurrence .cellDropped))
    ∧ (damaged frame bad = false → h.dest ≠ own → h.source ≠ own → h.hops ≠ 0 →
      exec (.cellReceived frame bad) s = .next
        { s with ring :=
          { s.ring with transit := s.ring.transit ++
            [Header.withCheck { h with hops := h.hops - 1 } ++ frame.drop 16] } }))

/-- One of the part's own READ or WRITE cells comes back. A READ, or a WRITE with ACK_REQ, that matches its tag frees
the tag: a QUARANTINED one without any other effect than CELL_DROPPED, a WAITING one with the fault NO_TAKER of its
owner, an ABANDONED one without a fault, after which its draining owner may be quiet. A notice that matches no entry
leaves CELL_DROPPED alone. A WRITE without ACK_REQ goes to the mover that its origin names: a fault NO_TAKER while it
finishes pieces, a further fault while it drains, and in any other state, or with no such mover, nothing but
CELL_DROPPED. A mover that takes a fault withdraws and is FAULTING, or HALTED when it is quiet at once:
`State.faults` and `State.withdrawn` say what becomes of its cells, tags, buffers and fetch, that those of the other
mover stay, and which events are raised (R36, R37, R38, R39, R42, R62, R63, R113, R144, R163). The matching of a
QUARANTINED tag is by log 20; the element's counts are 0 when there is none (log 19); the order of two occurrences is
a free value (log 11, 27). -/
def Obligations.OrphanNotice : Prop :=
  ∀ (s : State) (frame : List Byte), s.between → s.ring.link = .up →
    s.ring.transit.length < 4 → s.inbound.queue.length < 8 → damaged frame false = false →
    let h := Header.ofBytes frame
    let out := exec (.cellReceived frame false) s
    let dropped := out = .next (s.takeOccurrence .cellDropped)
    h.dest ≠ slotByte s.ring.ownSlot → h.source = slotByte s.ring.ownSlot →
    let acked := h.flags.getLsbD 0 = true
    let fits := fun i : TagInfo => h.dest = slotByte i.slot ∧ h.origin = moverByte i.origin
      ∧ (h.kind = 2 ∧ (∃ a, i.type = .read a) ∨ h.kind = 1 ∧ acked ∧ i.type = .ackedWrite)
    (∀ (t : TagNo) (i : TagInfo), h.tag = byteOf t.val → fits i →
      let v := s.mover i.origin
      let freed : State := { s with tags := s.tags.set t .free }
      let given := freed.setMover i.origin
        { v with tagsHeld := v.tagsHeld - 1, piecesInFlight := v.piecesInFlight - 1 }
      (∀ e, s.tags[t] = .quarantined i e → out = .next (freed.takeOccurrence .cellDropped))
      ∧ (∀ d, s.tags[t] = .waiting i (some d) → v.fault = none → v.finishing →
        given.faults i.origin
          { kind := .noTaker, elemAddr := i.elemAddr, remote := some i.ringAddr, tag := some t
            nak := none, further := 0 } (some .cellDropped) out)
      ∧ (∀ d, s.tags[t] = .abandoned i (some d) → given.released i.origin (some .cellDropped) out))
    ∧ (h.kind = 2 ∨ h.kind = 1 ∧ acked →
      (∀ (t : TagNo) (i : TagInfo), h.tag = byteOf t.val → s.tags[t].sentAs i → ¬fits i) → dropped)
    ∧ (h.kind = 1 → ¬acked →
      (2 ≤ h.origin.toNat → dropped)
      ∧ ∀ m : MoverId, h.origin = moverByte m →
        let v := s.mover m
        let fault : Addr → FaultRecord := fun a =>
          { kind := .noTaker, elemAddr := a, remote := some h.ringAddr, tag := none, nak := none
            further := 0 }
        (∀ e, v.finishing → v.current = .element e → v.fault = none →
          s.faults m (fault e.addr) (some .cellDropped) out)
        ∧ (∀ a, v.drains → v.currentAt a →
          out = .next ((s.setMover m (v.withFault (fault a))).takeOccurrence .cellDropped))
        ∧ (¬v.finishing → ¬v.drains → dropped))

/-! ### Ring-out -/

/-- The choice of the ring-out arbiter, with ring-out free and downstream ready: the transit head while no local
cell waits or the pass counter is below the pass count, else the head of the Reply Queue, else that of the
Request Queue. A buffer goes to SENDING and the checks are formed. While ring-out is busy, or downstream is not
ready, nothing is sent (R112, R114, R148, R149, R150). Downstream's readiness is the command's operand (log 9), and
with no choice to make, or nothing to send, the state stays as it is (log 1). -/
def Obligations.RingOutChoice : Prop :=
  ∀ s : State, exec (.ringOutChoice false) s = .next s
    ∧ (∀ o, s.ring.out = some o → exec (.ringOutChoice true) s = .next s)
    ∧ (s.ring.out = none →
    let idle := s.replyQueue = [] ∧ s.requestQueue = []
    let pass := s.ring.passCounter < s.mgmt.params.passCount
    (∀ f rest, s.ring.transit = f :: rest → idle ∨ pass →
      exec (.ringOutChoice true) s = .next
        { s with ring :=
          { s.ring with
            transit := rest
            passCounter := if idle then s.ring.passCounter else s.ring.passCounter + 1
            out := some { source := .transit, frame := f, beforeReset := false } } })
    ∧ (∀ c rest bs, s.replyQueue = c :: rest → s.ring.transit = [] ∨ ¬pass →
      (c.payload = .none ∧ bs = []) ∨ c.payload = .bytes bs →
      exec (.ringOutChoice true) s = .next
        { s with
          replyQueue := rest
          ring :=
            { s.ring with
              passCounter := 0
              out := some { source := .reply c, frame := cellFrame c.header bs, beforeReset := false } } })
    ∧ (∀ c rest b d cell, s.replyQueue = c :: rest → s.ring.transit = [] ∨ ¬pass →
      c.payload = .buffer b → s.pool[b] = .held .responder (.queued d cell) →
      exec (.ringOutChoice true) s = .next
        { s with
          replyQueue := rest
          pool := s.pool.set b (.held .responder (.sending d c.header))
          ring :=
            { s.ring with
              passCounter := 0
              out := some { source := .reply c, frame := cellFrame c.header d, beforeReset := false } } })
    ∧ (∀ c rest, s.replyQueue = [] → s.requestQueue = c :: rest → s.ring.transit = [] ∨ ¬pass →
      c.buffer = none →
      exec (.ringOutChoice true) s = .next
        { s with
          requestQueue := rest
          ring :=
            { s.ring with
              passCounter := 0
              out := some { source := .request c, frame := cellFrame c.header [], beforeReset := false } } })
    ∧ (∀ c rest b m d cell, s.replyQueue = [] → s.requestQueue = c :: rest →
      s.ring.transit = [] ∨ ¬pass → c.buffer = some b →
      s.pool[b] = .held (.mover m) (.queued d cell) →
      exec (.ringOutChoice true) s = .next
        { s with
          requestQueue := rest
          pool := s.pool.set b (.held (.mover m) (.sending d c.header))
          ring :=
            { s.ring with
              passCounter := 0
              out := some { source := .request c, frame := cellFrame c.header d, beforeReset := false } } })
    ∧ (idle → s.ring.transit = [] → exec (.ringOutChoice true) s = .next s))

/-- The finish of a transit cell, or of an ACK, NAK, ATTN or REPLY other than the reset reply, frees ring-out
and changes nothing else; that of a DATA frees its buffer as well; and a local cell begun before a reset point
frees ring-out alone (R110, R150). -/
def Obligations.FinishWithoutReport : Prop :=
  ∀ (s : State) (o : OnRing) (first : Bool), s.between → s.ring.out = some o →
    let t : State := { s with ring := { s.ring with out := none } }
    (o.beforeReset = true ∨ o.source = .transit → exec (.cellFinished first) s = .next t)
    ∧ (∀ c, o.beforeReset = false → o.source = .reply c → c.isReset = false →
      (∀ b, c.payload ≠ .buffer b) → exec (.cellFinished first) s = .next t)
    ∧ (∀ c b d cell, o.beforeReset = false → o.source = .reply c → c.isReset = false →
      c.payload = .buffer b → s.pool[b] = .held .responder (.sending d cell) →
      exec (.cellFinished first) s = .next { t with pool := s.pool.set b .free })

/-- The finish of an untracked WRITE frees its buffer and settles its piece. When its bytes were the last of a mover
that is finishing pieces, the element completes: the mover counts it and raises MOVERn_NOTIFY if asked. The list
ends, in IDLE with MOVERn_DONE, when the element does not chain, or in STOPPING with no fetch of the mover's own;
with one the mover stays in STOPPING with its resume address set (log 23) and the completed element still the current
one (log 30). In MOVING an element that chains is followed by what the look-ahead slot holds: FETCHING while it is
PENDING; a HELD PUSH or PULL in MOVING, with its own look-ahead requested when it chains; a HELD GATE in GATED with
MOVERn_GATE; HALTED with a FAILED one's fault. While the mover drains, the element does not complete, and the mover
may be quiet now: FAULTING goes to HALTED with MOVERn_HALTED, ABORTING to IDLE with the deferred reply stored and
waiting (R11, R12, R15, R16, R17, R23, R27, R29, R30, R33, R39, R110, R163). The element's counts are 0 when there is
none (log 19). -/
def Obligations.FinishedUntrackedWrite : Prop :=
  ∀ (s : State) (o : OnRing) (c : RequestCell) (b : BufNo) (d : List Byte) (cell : Header) (e : Element)
    (x : Xfer) (first : Bool), s.between → s.ring.out = some o → o.beforeReset = false →
    o.source = .request c → c.buffer = some b → c.header.tag = 0xFF →
    s.pool[b] = .held (.mover c.mover) (.sending d cell) →
    let v := s.mover c.mover
    v.current = .element e → e.xfer = some x →
    let out := exec (.cellFinished first) s
    let n := v.settled + c.header.length.toNat
    let t : State := State.setMover
      { s with ring := { s.ring with out := none }, pool := s.pool.set b .free } c.mover
      { v with buffersHeld := v.buffersHeld - 1, settled := n, piecesInFlight := v.piecesInFlight - 1 }
    (v.finishing → n ≠ x.byteCount → out = .next t)
    ∧ (v.finishing → n = x.byteCount → t.completes c.mover e out)
    ∧ (v.drains → t.released c.mover none out)

/-- The finish of a READ or of a tracked WRITE starts the deadline of its tag, which is WAITING, or ABANDONED by a
withdrawal while the cell was on ring-out; the WRITE's buffer is freed. A mover that drains goes on draining, since
it owns the tag. An entry in any other state, or with its deadline present, is unchanged; a mover that drains may
then be quiet by the finish of a WRITE: FAULTING goes to HALTED with MOVERn_HALTED, and ABORTING to IDLE with the
deferred OK reply stored and waiting (R27, R39, R51, R52, R63, R110, R163). The element's counts are 0 when there is
none (log 19). -/
def Obligations.FinishStartsDeadline : Prop :=
  ∀ (s : State) (o : OnRing) (c : RequestCell) (t : TagNo) (first : Bool), s.between →
    s.ring.out = some o → o.beforeReset = false → o.source = .request c → c.header.tag = byteOf t.val →
    let out := exec (.cellFinished first) s
    let ended : Tag → State := fun x =>
      { s with ring := { s.ring with out := none }, tags := s.tags.set t x }
    let freed : State → BufNo → State := fun u b => State.setMover { u with pool := s.pool.set b .free } c.mover
      { s.mover c.mover with buffersHeld := (s.mover c.mover).buffersHeld - 1 }
    let start := some (s.now + 16 * s.mgmt.params.responseTimeout)
    (∀ (i : TagInfo) (entry : Option Time → Tag),
      entry = .waiting i ∨ entry = .abandoned i → s.tags[t] = entry none →
      (c.buffer = none → out = .next (ended (entry start)))
      ∧ ∀ b d cell, c.buffer = some b → s.pool[b] = .held (.mover c.mover) (.sending d cell) →
        i.origin = c.mover ∨ ¬(s.mover c.mover).drains → out = .next (freed (ended (entry start)) b))
    ∧ ((∀ i, s.tags[t] ≠ .waiting i none ∧ s.tags[t] ≠ .abandoned i none) →
      (c.buffer = none → out = .next (ended s.tags[t]))
      ∧ ∀ b d cell, c.buffer = some b → s.pool[b] = .held (.mover c.mover) (.sending d cell) →
        ((s.mover c.mover).drains → (freed (ended s.tags[t]) b).released c.mover none out)
        ∧ (¬(s.mover c.mover).drains → out = .next (freed (ended s.tags[t]) b)))

/-- The finish of the reset reply is the reset point: every block takes its reset value, but for the own slot,
the link state, the transit FIFO and the operation on the card memory bus, which loses its requester. The
arbiter's next choice may have been taken first: the cell it chose, by the order of R148, is then on ring-out and
finishes, a local one without a report; all other cells of the local queues are lost (R119, R132, R148, R150, R155,
R183). The order is the command's operand, and downstream is then ready (log 10). The time, the free counter, the
serial, the record of card memory and the commands waiting are the model's own and are kept (log 24). -/
def Obligations.ResetPoint : Prop :=
  ∀ (s : State) (o : OnRing) (c : ReplyCell), s.ring.out = some o → o.beforeReset = false →
    o.source = .reply c → c.isReset = true →
    let after : List (List Byte) → Option OnRing → State := fun transit out =>
      { State.reset with
        ring := { ownSlot := s.ring.ownSlot, link := s.ring.link, transit := transit
                  passCounter := 0, out := out }
        port :=
          { inFlight := s.port.inFlight.map (fun p => { p with requester := none })
            lastServed := .mover .m1, nextSerial := s.port.nextSerial }
        cardMem := s.cardMem, now := s.now, free := s.free, pending := s.pending }
    let idle := s.replyQueue = [] ∧ s.requestQueue = []
    let pass := s.ring.passCounter < s.mgmt.params.passCount
    let sent : RingSource → Header → List Byte → State := fun source h bs => after s.ring.transit
      (some { source := source, frame := cellFrame h bs, beforeReset := true })
    exec (.cellFinished false) s = .next (after s.ring.transit none)
    ∧ (∀ f rest, s.ring.transit = f :: rest → idle ∨ pass →
      exec (.cellFinished true) s = .next
        (after rest (some { source := .transit, frame := f, beforeReset := false })))
    ∧ (s.ring.transit = [] ∨ ¬pass →
      (∀ r rest, s.replyQueue = r :: rest →
        (r.payload = .none → exec (.cellFinished true) s = .next (sent (.reply r) r.header []))
        ∧ (∀ bs, r.payload = .bytes bs →
          exec (.cellFinished true) s = .next (sent (.reply r) r.header bs))
        ∧ (∀ b h d cell, r.payload = .buffer b → s.pool[b] = .held h (.queued d cell) →
          exec (.cellFinished true) s = .next (sent (.reply r) r.header d)))
      ∧ (∀ q rest, s.replyQueue = [] → s.requestQueue = q :: rest →
        (q.buffer = none → exec (.cellFinished true) s = .next (sent (.request q) q.header []))
        ∧ (∀ b h d cell, q.buffer = some b → s.pool[b] = .held h (.queued d cell) →
          exec (.cellFinished true) s = .next (sent (.request q) q.header d))))
    ∧ (s.ring.transit = [] → idle → exec (.cellFinished true) s = .next (after [] none))

/-! ### Inbound service -/

/-- The lookup of R69: the first of the four checks that fails gives the reason, and a request that passes them
all is accepted through the OPEN window that contains its address, with the card address of R71. -/
def Obligations.LookupOrder : Prop :=
  ∀ (s : State) (source : Byte) (isWrite : Bool) (a : Addr) (len : Nat),
    let inside := fun i : WindowNo => s.windows[i].state = .opened
      ∧ s.windows[i].ringBase.toNat ≤ a.toNat
      ∧ a.toNat < s.windows[i].ringBase.toNat + 4096 * 2 ^ s.windows[i].sizeExp
    let bad := len = 0 ∨ 64 < len
    let allowed := fun i : WindowNo => s.windows[i].mask.getLsbD source.toNat = true
      ∧ (if isWrite then s.windows[i].canWrite = true else s.windows[i].canRead = true)
    let fits := fun i : WindowNo =>
      a.toNat + len ≤ s.windows[i].ringBase.toNat + 4096 * 2 ^ s.windows[i].sizeExp
    (bad → s.lookup source isWrite a len = .refused .format none)
    ∧ (¬bad → (∀ i, ¬inside i) → s.lookup source isWrite a len = .refused .noWindow none)
    ∧ ∀ i : WindowNo, inside i → (∀ j, inside j → j = i) → ¬bad →
      (¬allowed i → s.lookup source isWrite a len = .refused .denied (some i))
      ∧ (allowed i → ¬fits i → s.lookup source isWrite a len = .refused .range (some i))
      ∧ (allowed i → fits i → s.lookup source isWrite a len =
          .accepted i (s.windows[i].cardBase + (a - s.windows[i].ringBase)))

/-- A good WRITE in hand that the lookup accepts joins the Inbound Memory Queue when a place is free, at
DISPATCH_CELL or at INBOUND_ADMISSION, and is counted against its window; with no place free it waits. A READ
that holds its buffer is admitted in the same way (R71, R84, R85, R91, R92). -/
def Obligations.RequestAdmitted : Prop :=
  ∀ (s : State) (c : RxCell) (rest : List RxCell) (w : WindowNo) (a : Addr), s.between →
    s.inboundStaged → s.inbound.queue = c :: rest →
    let h := c.header
    let admitted : InboundKind → State := fun k =>
      { s with
        inbound := { queue := rest, hand := none }
        imq := s.imq ++
          [{ kind := k, window := w, cardAddr := a, length := h.length.toNat, requester := h.source
             origin := h.origin, tag := h.tag, ringAddr := h.ringAddr
             stage := if s.imq = [] then .atPort else .queued }]
        windows := s.windows.set w
          { s.windows[w] with
            inFlight := s.windows[w].inFlight + 1, accepted := s.windows[w].accepted + 1 } }
    let write := InboundKind.write c.payload (h.flags.getLsbD 0)
    (h.kind = 1 → s.lookup h.source true h.ringAddr h.length.toNat = .accepted w a →
      (s.inbound.hand = none → c.good = true → s.imq.length < 4 →
        exec .dispatchCell s = .next (admitted write))
      ∧ (s.inbound.hand = none → c.good = true → ¬s.imq.length < 4 →
        exec .dispatchCell s = .next
          { s with inbound := { s.inbound with hand := some (.memoryPlace none) } })
      ∧ (s.inbound.hand = some (.memoryPlace none) → s.imq.length < 4 →
        exec .inboundAdmission s = .next (admitted write)))
    ∧ ∀ b : BufNo, h.kind = 2 → s.lookup h.source false h.ringAddr h.length.toNat = .accepted w a →
      s.inbound.hand = some (.memoryPlace (some b)) → s.imq.length < 4 →
      exec .inboundAdmission s = .next (admitted (.read b))

/-- A READ that the lookup accepts takes the Responder's buffer, at DISPATCH_CELL or at RESPONDER_BUFFER_TAKEN:
buffer 6 if that is free, else 7, else the lowest-numbered free one of 0–5, one passed over after a reset point not
counted as free. With a place free it is admitted with it, else it waits for the place holding it; with no buffer
free it waits for one (R85, R97, R108, R119). -/
def Obligations.ReadTakesBuffer : Prop :=
  ∀ (s : State) (c : RxCell) (rest : List RxCell) (w : WindowNo) (a : Addr), s.between →
    s.inboundStaged → s.inbound.queue = c :: rest →
    let h := c.header
    h.kind = 2 → s.lookup h.source false h.ringAddr h.length.toNat = .accepted w a →
    (∀ b : BufNo, s.responderTakes b →
      let next : State := if s.imq.length < 4 then
          { s with
            inbound := { queue := rest, hand := none }
            pool := s.pool.set b (.held .responder .assigned)
            imq := s.imq ++
              [{ kind := .read b, window := w, cardAddr := a, length := h.length.toNat
                 requester := h.source, origin := h.origin, tag := h.tag, ringAddr := h.ringAddr
                 stage := if s.imq = [] then .atPort else .queued }]
            windows := s.windows.set w
              { s.windows[w] with
                inFlight := s.windows[w].inFlight + 1, accepted := s.windows[w].accepted + 1 } }
        else
          { s with
            inbound := { s.inbound with hand := some (.memoryPlace (some b)) }
            pool := s.pool.set b (.held .responder .assigned) }
      (s.inbound.hand = none → exec .dispatchCell s = .next next)
      ∧ (s.inbound.hand = some .responderBuffer → exec .responderBufferTaken s = .next next))
    ∧ ((∀ b, ¬s.bufferFree b) → s.inbound.hand = none → exec .dispatchCell s = .next
        { s with inbound := { s.inbound with hand := some .responderBuffer } })

/-- A request that the lookup refuses, at verdict or at admission, is counted at its matched window, raises
INBOUND_REFUSED, and is answered with a NAK formed from its header: placed at once when a place is free, else
waiting. A READ refused at admission frees its buffer, and one that takes its buffer with no place free waits for
the place, with no lookup yet. A BAD WRITE is not looked up: it raises CELL_ERROR too, and its NAK says CORRUPT
(R70, R78, R84, R85, R90, R97, R99). That the NAK is placed within the same step when a place is free is log 15; the
order of two occurrences is a free value (log 11, 27). -/
def Obligations.RequestRefused : Prop :=
  ∀ (s : State) (c : RxCell) (rest : List RxCell) (reason : NakReason) (matched : Option WindowNo),
    s.between → s.inbound.queue = c :: rest →
    let h := c.header
    let nak : NakReason → ReplyCell := fun why =>
      { producer := .dispatcher, payload := .none, isReset := false
        header := { dest := h.source, source := slotByte s.ring.ownSlot, kind := 5, origin := h.origin
                    tag := h.tag, hops := byteOf s.mgmt.params.hopLimit, length := 0, flags := 0
                    ringAddr := h.ringAddr, seq := why.code, status := 0 } }
    let counted : State :=
      { s with windows := match matched with
          | some i => s.windows.set i { s.windows[i] with refused := s.windows[i].refused + 1 }
          | none => s.windows }
    let replied : NakReason → State → State := fun why t =>
      if s.replyQueue.length < 8 then
        { t with replyQueue := s.replyQueue ++ [nak why], inbound := { queue := rest, hand := none } }
      else { t with inbound := { s.inbound with hand := some (.nakPlace why) } }
    let answered : State → State := fun t => (replied reason t).takeOccurrence .inboundRefused
    (h.kind = 1 ∧ c.good = true ∨ h.kind = 2 → s.inbound.hand = none →
      s.lookup h.source (h.kind = 1) h.ringAddr h.length.toNat = .refused reason matched →
      exec .dispatchCell s = .next (answered counted))
    ∧ (h.kind = 1 → c.good = false → s.inbound.hand = none →
      ∃ swap : Bool, exec .dispatchCell s = .next
        (State.takeTwo { replied .corrupt s with free := s.free + 1 } swap .cellError .inboundRefused))
    ∧ (h.kind = 1 → s.inbound.hand = some (.memoryPlace none) → s.imq.length < 4 →
      s.lookup h.source true h.ringAddr h.length.toNat = .refused reason matched →
      exec .inboundAdmission s = .next (answered counted))
    ∧ ∀ b : BufNo, h.kind = 2 →
      (s.inbound.hand = some (.memoryPlace (some b)) → s.imq.length < 4 →
        s.pool[b] = .held .responder .assigned →
        s.lookup h.source false h.ringAddr h.length.toNat = .refused reason matched →
        exec .inboundAdmission s = .next (answered { counted with pool := s.pool.set b .free }))
      ∧ (s.inbound.hand = some .responderBuffer → s.responderTakes b →
        (s.imq.length < 4 →
          s.lookup h.source false h.ringAddr h.length.toNat = .refused reason matched →
          exec .responderBufferTaken s = .next (answered counted))
        ∧ (¬s.imq.length < 4 → exec .responderBufferTaken s = .next
          { s with
            inbound := { s.inbound with hand := some (.memoryPlace (some b)) }
            pool := s.pool.set b (.held .responder .assigned) }))

/-- R89: a REPLY or ATTN in hand is discarded with STRAY_RESPONSE, whatever its payload check result, and a cell
of unknown kind with CELL_ERROR; nothing else changes. -/
def Obligations.CellsThatNothingTakes : Prop :=
  ∀ (s : State) (c : RxCell) (rest : List RxCell), s.between → s.inbound.hand = none →
    s.inbound.queue = c :: rest →
    let t : State := { s with inbound := { queue := rest, hand := none } }
    (c.header.kind = 7 ∨ c.header.kind = 8 →
      exec .dispatchCell s = .next (t.takeOccurrence .strayResponse))
    ∧ (c.header.kind = 0 ∨ 8 < c.header.kind.toNat →
      exec .dispatchCell s = .next (t.takeOccurrence .cellError))

/-- R88: a good MGMT in hand waits for the Management Unit, and is discarded while a node reset is pending; a
BAD one is discarded with CELL_ERROR, and the Management Unit does not see it. -/
def Obligations.ManagementCellInHand : Prop :=
  ∀ (s : State) (c : RxCell) (rest : List RxCell), s.between → s.inbound.hand = none →
    s.inbound.queue = c :: rest → c.header.kind = 6 →
    let gone : State := { s with inbound := { queue := rest, hand := none } }
    (c.good = true → s.mgmt.mode = .ready → exec .dispatchCell s = .next
      { s with inbound := { s.inbound with hand := some .management } })
    ∧ (c.good = true → s.mgmt.mode = .resetting → exec .dispatchCell s = .next gone)
    ∧ (c.good = false → exec .dispatchCell s = .next (gone.takeOccurrence .cellError))

/-- A response that matches a QUARANTINED tag is discarded with STRAY_RESPONSE and frees the tag, and no
mover is told. A DATA whose payload check failed raises CELL_ERROR too, in either order (R53, R58). The matching is
R53's; the order of two occurrences is a free value (log 11, 27). -/
def Obligations.LateResponse : Prop :=
  ∀ (s : State) (c : RxCell) (rest : List RxCell) (t : TagNo) (i : TagInfo) (e : Time), s.between →
    s.inbound.hand = none → s.inbound.queue = c :: rest → s.tags[t] = .quarantined i e →
    let h := c.header
    h.tag = byteOf t.val → h.source = slotByte i.slot → h.origin = moverByte i.origin →
    (h.kind = 3 ∧ (∃ a, i.type = .read a) ∨ h.kind = 4 ∧ i.type = .ackedWrite ∨ h.kind = 5) →
    let freed : State :=
      { s with inbound := { queue := rest, hand := none }, tags := s.tags.set t .free }
    (¬(h.kind = 3 ∧ c.good = false) →
      exec .dispatchCell s = .next (freed.takeOccurrence .strayResponse))
    ∧ (h.kind = 3 → c.good = false → ∃ swap : Bool, exec .dispatchCell s = .next
        (State.takeTwo { freed with free := s.free + 1 } swap .cellError .strayResponse))

/-- Good DATA of the requested length for a WAITING tag frees the tag. Its write joins the owner's memory queue
at once, or waits in the Dispatcher's hand as the owner's pending write until MOVER_QUEUE_WRITE_PLACED finds a
place (R28, R54, R87). -/
def Obligations.GoodDataWritten : Prop :=
  ∀ (s : State) (c : RxCell) (rest : List RxCell), s.between → s.inbound.queue = c :: rest →
    let h := c.header
    let op : Addr → Addr → MemOp := fun cardAddr ringAddr =>
      { kind := .write c.payload, cardAddr := cardAddr, length := h.length.toNat, remote := ringAddr
        stage := .queued }
    (∀ (t : TagNo) (i : TagInfo) (a : Addr) (d : Time), s.inbound.hand = none → h.kind = 3 →
      c.good = true → s.tags[t] = .waiting i (some d) → i.type = .read a → h.tag = byteOf t.val →
      h.source = slotByte i.slot → h.origin = moverByte i.origin → h.length.toNat = i.length →
      let v := s.mover i.origin
      let freed : State := { s with tags := s.tags.set t .free }
      (v.queue.length < 2 → exec .dispatchCell s = .next
        (State.setMover { freed with inbound := { queue := rest, hand := none } } i.origin
          { v with tagsHeld := v.tagsHeld - 1, queue := v.queue ++ [op a i.ringAddr] }))
      ∧ (¬v.queue.length < 2 → exec .dispatchCell s = .next
        (State.setMover
          { freed with inbound :=
            { s.inbound with hand := some (.moverPlace i.origin a i.ringAddr) } } i.origin
          { v with tagsHeld := v.tagsHeld - 1, pendingWrites := v.pendingWrites + 1 })))
    ∧ ∀ (m : MoverId) (a r : Addr), s.inbound.hand = some (.moverPlace m a r) →
      (s.mover m).queue.length < 2 → exec .moverQueueWritePlaced s = .next
        (State.setMover { s with inbound := { queue := rest, hand := none } } m
          { s.mover m with
            pendingWrites := (s.mover m).pendingWrites - 1, queue := (s.mover m).queue ++ [op a r] })

/-- An ACK that matches a WAITING tag of an acknowledged WRITE frees the tag and settles its piece; when its bytes
were the last, the element completes: the list ends in IDLE with MOVERn_DONE, or goes on by the look-ahead slot, or
in STOPPING waits for a discarded fetch (log 23, 30). A NAK, or DATA of another length or with a failed payload check,
that matches a WAITING tag frees it, and its owner takes the fault with the entry's fields, by `State.faults`; one
that matches an ABANDONED tag frees it without a fault, and if that leaves the draining owner quiet, FAULTING goes to
HALTED with MOVERn_HALTED and ABORTING to IDLE with the deferred OK reply stored and waiting. An untracked NAK is its
mover's fault while that finishes pieces, a further fault while it drains, and else stray. Stray, and without effect
on any tag or mover, is every response that matches no entry, because of its source, origin or kind, an absent
deadline or a FREE tag; every one with a tag of 10h-0FEh; and an untracked one that is no NAK or names no mover. A
DATA whose payload check failed raises CELL_ERROR too (R16, R30, R33, R36, R37, R38, R39, R41, R53, R54, R55, R56,
R57, R63, R86, R113, R163). The element's counts are 0 when there is none (log 19); the order of two occurrences is a
free value (log 11, 27). -/
def Obligations.ResponsesTaken : Prop :=
  ∀ (s : State) (c : RxCell) (rest : List RxCell), s.between → s.inbound.hand = none →
    s.inbound.queue = c :: rest →
    let h := c.header
    let out := exec .dispatchCell s
    let gone : State := { s with inbound := { queue := rest, hand := none } }
    let damage := if h.kind = 3 ∧ c.good = false then some Event.cellError else none
    let stray := gone.answers damage (some .strayResponse) out
    let fits : TagInfo → Prop := fun i => h.source = slotByte i.slot ∧ h.origin = moverByte i.origin
      ∧ (h.kind = 3 ∧ (∃ a, i.type = .read a) ∨ h.kind = 4 ∧ i.type = .ackedWrite ∨ h.kind = 5)
    (∀ (t : TagNo) (i : TagInfo) (d : Time), h.tag = byteOf t.val → fits i →
      let v := s.mover i.origin
      let freed : State := { gone with tags := s.tags.set t .free }
      let fault : FaultKind → Option Byte → FaultRecord := fun k nak =>
        { kind := k, elemAddr := i.elemAddr, remote := some i.ringAddr, tag := some t, nak := nak
          further := 0 }
      let settled : State := freed.setMover i.origin
        { v with
          tagsHeld := v.tagsHeld - 1, settled := v.settled + i.length
          piecesInFlight := v.piecesInFlight - 1 }
      let given : State := freed.setMover i.origin
        { v with tagsHeld := v.tagsHeld - 1, piecesInFlight := v.piecesInFlight - 1 }
      (∀ e x, s.tags[t] = .waiting i (some d) → v.finishing → h.kind = 4 →
        v.current = .element e → e.xfer = some x →
        (v.settled + i.length ≠ x.byteCount → out = .next settled)
        ∧ (v.settled + i.length = x.byteCount → settled.completes i.origin e out))
      ∧ (s.tags[t] = .waiting i (some d) → v.finishing → v.fault = none →
        (h.kind = 5 → given.faults i.origin (fault .remoteRefused (some h.seq)) none out)
        ∧ (h.kind = 3 → h.length.toNat ≠ i.length →
          given.faults i.origin (fault .dataLength none) damage out)
        ∧ (h.kind = 3 → h.length.toNat = i.length → c.good = false →
          given.faults i.origin (fault .dataCorrupt none) damage out))
      ∧ (s.tags[t] = .abandoned i (some d) →
        (∃ u, out = .next u ∧ gone.actsOnMovers u ∧ u.tags[t] = .free
          ∧ (u.mover i.origin).fault = v.fault
          ∧ (u.mover i.origin).tagsHeld = v.tagsHeld - 1)
        ∧ given.released i.origin damage out))
    ∧ (h.kind = 3 ∨ h.kind = 4 ∨ h.kind = 5 →
      (∀ t : TagNo, h.tag = byteOf t.val → (∀ i, s.tags[t].sentAs i → ¬fits i) → stray)
      ∧ (0x10 ≤ h.tag.toNat → h.tag ≠ 0xFF → stray)
      ∧ (h.tag = 0xFF → h.kind ≠ 5 ∨ 2 ≤ h.origin.toNat → stray))
    ∧ ∀ m : MoverId, h.kind = 5 → h.tag = 0xFF → h.origin = moverByte m →
      let v := s.mover m
      let fault : Addr → FaultRecord := fun a =>
        { kind := .remoteRefused, elemAddr := a, remote := some h.ringAddr, tag := none
          nak := some h.seq, further := 0 }
      (∀ e, v.finishing → v.current = .element e → v.fault = none →
        gone.faults m (fault e.addr) none out)
      ∧ (∀ a, v.drains → v.currentAt a → out = .next (gone.setMover m (v.withFault (fault a))))
      ∧ (v.state = .idle ∨ v.state = .halted ∨ v.state = .fetching ∨ v.state = .gated
          ∨ v.state = .stopping .fetch →
        out = .next (gone.takeOccurrence .strayResponse))

/-! ### The Reply Queue -/

/-- A cell that waits for a place in the Reply Queue joins its tail when one is free: the Dispatcher's NAK, a
reply of the Management Unit, and the Event Unit's ATTN, each with its header formed then (R90, R151, R157,
R165, R192). That the hops are those of the moment of placing is the model's reading (log 21). -/
def Obligations.RepliesPlaced : Prop :=
  ∀ s : State, s.between → s.replyQueue.length < 8 →
    let own := slotByte s.ring.ownSlot
    let hops := byteOf s.mgmt.params.hopLimit
    let reply : WaitingReply → ReplyCell := fun r =>
      { producer := .management, payload := .bytes r.payload, isReset := r.isReset
        header := { dest := r.dest, source := own, kind := 7, origin := r.origin, tag := r.tag
                    hops := hops, length := byteOf r.payload.length, flags := 0, ringAddr := 0
                    seq := r.seq, status := r.status.code } }
    (∀ c rest reason, s.inbound.hand = some (.nakPlace reason) → s.inbound.queue = c :: rest →
      exec .dispatcherNakPlaced s = .next
        { s with
          inbound := { queue := rest, hand := none }
          replyQueue := s.replyQueue ++
            [{ producer := .dispatcher, payload := .none, isReset := false
               header := { dest := c.header.source, source := own, kind := 5, origin := c.header.origin
                           tag := c.header.tag, hops := hops, length := 0, flags := 0
                           ringAddr := c.header.ringAddr, seq := reason.code, status := 0 } }] })
    ∧ (∀ r, s.mgmt.replyLast = some r → exec (.mgmtReplyPlaced .lastTaken) s = .next
        { s with mgmt := { s.mgmt with replyLast := none }, replyQueue := s.replyQueue ++ [reply r] })
    ∧ (∀ r, s.mgmt.replyDeferred = some r → exec (.mgmtReplyPlaced .deferred) s = .next
        { s with mgmt := { s.mgmt with replyDeferred := none }, replyQueue := s.replyQueue ++ [reply r] })
    ∧ (∀ w, s.events.waiting = some w → exec .attnPlaced s = .next
        { s with
          events := { s.events with waiting := none }
          replyQueue := s.replyQueue ++
            [{ producer := .eventUnit, payload := .bytes (le16 w.number ++ le16 w.pendingSet)
               isReset := false
               header := { dest := slotByte w.dest, source := own, kind := 8, origin := 4, tag := 0xFF
                           hops := hops, length := 4, flags := 0, ringAddr := 0, seq := 0
                           status := 0 } }] })

/-- The head of the Inbound Memory Queue, when it replies and a place is free, places its ACK, DATA or NAK
MEMORY and leaves; its window counts one less. The last operation of a DRAINING window, whichever of the three it
places, closes the window and ends the deferred close, whose OK reply is stored and waits (R72, R77, R93, R94, R95,
R99, R163). With no place free it waits (R96). -/
def Obligations.InboundReplyPlaced : Prop :=
  ∀ (s : State) (o : InboundOp) (rest : List InboundOp) (ok : Bool), s.imq = o :: rest →
    o.stage = .replying ok →
    let out := exec .imqReplyPlaced s
    let cell : Byte → Byte → Byte → ReplyPayload → ReplyCell := fun kind length seq payload =>
      { producer := .inboundQueue, payload := payload, isReset := false
        header := { dest := o.requester, source := slotByte s.ring.ownSlot, kind := kind
                    origin := o.origin, tag := o.tag, hops := byteOf s.mgmt.params.hopLimit
                    length := length, flags := 0, ringAddr := o.ringAddr, seq := seq, status := 0 } }
    let placed : ReplyCell → State := fun c => { s with replyQueue := s.replyQueue ++ [c] }
    (s.replyQueue.length < 8 →
      (∀ bytes ack, ok = true → o.kind = .write bytes ack →
        (placed (cell 4 0 0 .none)).headLeaves o rest none out)
      ∧ (ok = false → (placed (cell 5 0 6 .none)).headLeaves o rest none out)
      ∧ (∀ b d, ok = true → o.kind = .read b → s.pool[b] = .held .responder (.filled d) →
        let c := cell 3 (byteOf o.length) 0 (.buffer b)
        State.headLeaves { placed c with pool := s.pool.set b (.held .responder (.queued d c.header)) }
          o rest none out))
    ∧ (¬s.replyQueue.length < 8 → out = .next s)

/-! ### Card memory -/

/-- What each requester presents: the head of the Inbound Memory Queue in AT_PORT, the fetch in flight, the head of a
mover's memory queue in QUEUED. With none in flight the first presenting requester after the one last served, in the
cycle INBOUND, FETCH, MOVER0, MOVER1, is granted. Its operation becomes the one in flight, with the timeout end of
R127, unless its range crosses the top of card memory: then it ends NOT_ISSUED, which for a fetch is FETCH_MEMORY, in
HALTED for a mover in FETCHING and as a FAILED look-ahead for one in MOVING; a discarded fetch gives no fault, and
the next fetch starts as `FetchDone` says (R1, R12, R13, R16, R23, R33, R34, R36, R39, R121, R122, R123, R125, R127,
R128). An operation in flight, or nothing presented, leaves the state as it is (log 1). The serial marks the
operation for its answer (log 7); the element's counts are 0 when there is none (log 19), and one that has completed
in STOPPING is still the current one (log 30); the order of two occurrences is a free value (log 11, 27). -/
def Obligations.MemoryGranted : Prop :=
  ∀ s : State,
    ((∀ o rest, s.imq = o :: rest → o.stage = .atPort → s.presented .inbound = some
        ((match o.kind with | .write bytes _ => .write bytes | .read _ => .read), o.cardAddr, o.length))
      ∧ ((∀ o rest, s.imq = o :: rest → o.stage ≠ .atPort) → s.presented .inbound = none)
      ∧ s.presented .fetch = s.fetcher.inFlight.map (fun f => (.read, f.addr, 24))
      ∧ ∀ m : MoverId,
        (∀ o rest, (s.mover m).queue = o :: rest → o.stage = .queued → s.presented (.mover m) = some
          ((match o.kind with | .write bytes => .write bytes | .read _ _ => .read), o.cardAddr, o.length))
        ∧ ((∀ o rest, (s.mover m).queue = o :: rest → o.stage ≠ .queued) →
          s.presented (.mover m) = none))
    ∧ (∀ r : Requester, s.nextGrant = some r ↔ s.presented r ≠ none
        ∧ ∀ q : Requester, s.presented q ≠ none → r.behind s.port.lastServed ≤ q.behind s.port.lastServed)
    ∧ (s.between → s.port.inFlight ≠ none ∨ (∀ q, s.presented q = none) →
      exec .memoryGrant s = .next s)
    ∧ ∀ (r : Requester) (dir : PortDir) (a : Addr) (n : Nat), s.between →
      s.port.inFlight = none → s.nextGrant = some r → s.presented r = some (dir, a, n) →
      let granted : State :=
        { s with port :=
          { inFlight := some
              { requester := some r, dir := dir, cardAddr := a, length := n
                timeoutEnd := s.now + s.mgmt.params.memoryTimeout, serial := s.port.nextSerial }
            lastServed := r, nextSerial := s.port.nextSerial + 1 } }
      (a.toNat + n ≤ 0x100000000 →
        (r = .inbound ∨ r = .fetch → exec .memoryGrant s = .next granted)
        ∧ ∀ m o rest, r = .mover m → (s.mover m).queue = o :: rest →
          exec .memoryGrant s = .next
            (granted.setMover m { s.mover m with queue := { o with stage := .atPort } :: rest }))
      ∧ ∀ f : Fetch, 0x100000000 < a.toNat + n → r = .fetch → s.fetcher.inFlight = some f →
        State.fetchFails
          { s with
            port := { s.port with lastServed := .fetch }
            fetcher := Fetcher.start { s.fetcher with inFlight := none } } f (exec .memoryGrant s)

/-- The bus answers an inbound operation with DONE. A WRITE without ACK_REQ has written its bytes and leaves the
queue; one with ACK_REQ places its ACK and leaves when the Reply Queue has a place, and else replies and waits at
the head; a READ's bytes fill its buffer, whose DATA is placed when there is a place, and else the READ waits at
the head with its buffer FILLED. The last operation of a DRAINING window that leaves closes it and ends the deferred
close, whose OK reply is stored and waits (R72, R77, R93, R94, R96, R99, R107, R115, R126, R163). The bytes enter the
model's record of card memory (log 5); an ACK or DATA is placed at once when a place is free (log 15). -/
def Obligations.InboundMemoryDone : Prop :=
  ∀ (s : State) (p : PortOp) (o : InboundOp) (rest : List InboundOp), s.between →
    s.port.inFlight = some p → p.requester = some .inbound → s.imq = o :: rest →
    let header : Byte → Byte → Header := fun kind length =>
      { dest := o.requester, source := slotByte s.ring.ownSlot, kind := kind, origin := o.origin
        tag := o.tag, hops := byteOf s.mgmt.params.hopLimit, length := length, flags := 0
        ringAddr := o.ringAddr, seq := 0, status := 0 }
    let free : State := { s with port := { s.port with inFlight := none } }
    let waiting : List InboundOp := { o with stage := .replying true } :: rest
    (∀ bytes ack, p.dir = .write bytes → o.kind = .write bytes ack →
      let out := exec (.memoryAnswer p.serial (.done [])) s
      let written : State := { free with cardMem := memWrite s.cardMem p.cardAddr.toNat bytes }
      (ack = false → written.headLeaves o rest none out)
      ∧ (ack = true →
        (s.replyQueue.length < 8 →
          State.headLeaves
            { written with
              replyQueue := s.replyQueue ++
                [{ producer := .inboundQueue, header := header 4 0, payload := .none, isReset := false }] }
            o rest none out)
        ∧ (¬s.replyQueue.length < 8 → out = .next { written with imq := waiting })))
    ∧ ∀ (b : BufNo) (bytes : List Byte), p.dir = .read → o.kind = .read b →
      bytes.length = p.length → s.pool[b] = .held .responder .assigned →
      let out := exec (.memoryAnswer p.serial (.done bytes)) s
      let found : State := { free with cardMem := memWrite s.cardMem p.cardAddr.toNat bytes }
      let h := header 3 (byteOf o.length)
      (s.replyQueue.length < 8 →
        State.headLeaves
          { found with
            pool := s.pool.set b (.held .responder (.queued bytes h))
            replyQueue := s.replyQueue ++
              [{ producer := .inboundQueue, header := h, payload := .buffer b, isReset := false }] }
          o rest none out)
      ∧ (¬s.replyQueue.length < 8 → out = .next
        { found with imq := waiting, pool := s.pool.set b (.held .responder (.filled bytes)) })

/-- The bus answers an element fetch with DONE, and the next fetch starts: the waiting one, or with both movers
waiting that of the mover other than *last served*. A mover in FETCHING makes a valid PUSH or PULL current and
enters MOVING, with its look-ahead requested when it chains; a GATE and enters GATED; and it halts on a failure. A
mover in MOVING puts the outcome in its look-ahead slot. A discarded fetch is dropped without validation, and its
mover told that it has ended: STOPPING with cause FETCH, or with cause ELEMENT once its element has completed, goes
to IDLE with MOVERn_DONE, and FAULTING or ABORTING may be quiet by it (R7, R11, R12, R13, R15, R16, R23, R33, R34,
R39, R163). The bytes enter the model's record of card memory (log 5); the element's counts are 0 when there is
none (log 19); an element that has completed in STOPPING is still the current one (log 30). -/
def Obligations.FetchDone : Prop :=
  (∀ f : Fetcher, f.startsAs f.start)
  ∧ ∀ (s : State) (p : PortOp) (f : Fetch) (bytes : List Byte), s.between →
    s.port.inFlight = some p → p.requester = some .fetch → p.dir = .read → bytes.length = p.length →
    s.fetcher.inFlight = some f →
    let v := s.mover f.mover
    let out := exec (.memoryAnswer p.serial (.done bytes)) s
    let outcome := validateElement s.ring.ownSlot f.addr bytes
    let ended : Fetcher := { s.fetcher with inFlight := none }
    let seen : Fetcher → State := fun g =>
      { s with
        port := { s.port with inFlight := none }
        cardMem := memWrite s.cardMem p.cardAddr.toNat bytes
        fetcher := g.start }
    let current : MoverState → Option Nat → Element → Mover := fun st next e =>
      { v with state := st, current := .element e, nextPiece := next, issued := 0, settled := 0 }
    (f.discarded = false → v.state = .fetching → ∀ e, outcome = .valid e →
      (e.op ≠ .gate → e.stopAfter = true ∨ e.next = none →
        out = .next ((seen ended).setMover f.mover (current .moving (some 1) e)))
      ∧ (∀ a, e.op ≠ .gate → e.stopAfter = false → e.next = some a →
        out = .next ((seen (ended.setWaiting f.mover (some a))).setMover f.mover
          { current .moving (some 1) e with lookAhead := .pending }))
      ∧ (e.op = .gate → out = .next
        (((seen ended).setMover f.mover (current .gated none e)).takeOccurrence (.moverGate f.mover))))
    ∧ (f.discarded = false → v.state = .fetching → v.fault = none → ∀ k, outcome = .failed k →
      out = .next
        (((seen ended).setMover f.mover
          { v with
            state := .halted, current := .absent, nextPiece := none, issued := 0, settled := 0
            resume := none
            fault := some { kind := k, elemAddr := f.addr, remote := none, tag := none, nak := none
                            further := 0 } }).takeOccurrence (.moverHalted f.mover)))
    ∧ (f.discarded = false → v.state = .moving → ∀ e, outcome = .valid e →
      out = .next ((seen ended).setMover f.mover { v with lookAhead := .held e }))
    ∧ (f.discarded = false → v.state = .moving → ∀ k, outcome = .failed k →
      out = .next ((seen ended).setMover f.mover { v with lookAhead := .failed k f.addr }))
    ∧ (f.discarded = true → (seen ended).discardEnds f.mover none out)

/-- The bus answers a mover's operation with DONE. While the mover finishes pieces, the read of a PUSH piece fills
its buffer, and its WRITE cell joins the Request Queue, or waits FILLED while that is full; the write of a PULL
piece settles it, and with the last bytes completes the element. While the mover drains, a read's buffer is freed
and no cell formed, a write settles its piece without completing the element, and the mover may be quiet now (R16,
R27, R28, R30, R33, R38, R39, R107, R111, R129, R163). The bytes enter the model's record of card memory (log 5); a
WRITE cell is placed at once when a place is free (log 15); in STOPPING the mover waits for a discarded fetch of
its own (log 23, 30); the element's counts are 0 when there is none (log 19). -/
def Obligations.MoverMemoryDone : Prop :=
  ∀ (s : State) (p : PortOp) (m : MoverId) (o : MemOp) (rest : List MemOp), s.between →
    s.port.inFlight = some p → p.requester = some (.mover m) →
    let v := s.mover m
    v.queue = o :: rest →
    (∀ (b : BufNo) (t : Option TagNo) (bytes : List Byte), p.dir = .read → o.kind = .read b t →
      bytes.length = p.length → s.pool[b] = .held (.mover m) .assigned →
      let out := exec (.memoryAnswer p.serial (.done bytes)) s
      let found : State :=
        { s with
          port := { s.port with inFlight := none }
          cardMem := memWrite s.cardMem p.cardAddr.toNat bytes }
      (∀ x : Xfer, v.finishing → v.xfer = some x →
        let h : Header :=
          { dest := slotByte x.slot, source := slotByte s.ring.ownSlot, kind := 1
            origin := moverByte m, tag := tagByte t, hops := byteOf s.mgmt.params.hopLimit
            length := byteOf o.length, flags := if t = none then 0 else 1, ringAddr := o.remote
            seq := 0, status := 0 }
        (s.requestQueue.length < 8 → out = .next
          (State.setMover
            { found with
              pool := s.pool.set b (.held (.mover m) (.queued bytes h))
              requestQueue := s.requestQueue ++
                [{ kind := .write, mover := m, header := h, buffer := some b }] } m
            { v with queue := rest }))
        ∧ (¬s.requestQueue.length < 8 → out = .next
          (State.setMover { found with pool := s.pool.set b (.held (.mover m) (.filled bytes)) } m
            { v with queue := { o with stage := .filled } :: rest })))
      ∧ (v.drains →
        (State.setMover { found with pool := s.pool.set b .free } m
          { v with
            queue := rest, buffersHeld := v.buffersHeld - 1
            piecesInFlight := v.piecesInFlight - 1 }).released m none out))
    ∧ ∀ bytes payload, p.dir = .write bytes → o.kind = .write payload →
      let out := exec (.memoryAnswer p.serial (.done [])) s
      let settled : State := State.setMover
        { s with
          port := { s.port with inFlight := none }
          cardMem := memWrite s.cardMem p.cardAddr.toNat bytes } m
        { v with
          queue := rest, settled := v.settled + o.length, piecesInFlight := v.piecesInFlight - 1 }
      (∀ e x, v.finishing → v.current = .element e → e.xfer = some x →
        (v.settled + o.length ≠ x.byteCount → out = .next settled)
        ∧ (v.settled + o.length = x.byteCount → settled.completes m e out))
      ∧ (v.drains → settled.released m none out)

/-- An operation in flight that ends with TIMEOUT at its timeout end, or with ERROR by an answer that carries its
serial (log 7), frees the port; an answer for any other operation is ignored. A read shows nothing of card memory; a
write leaves its own range old, new or mixed (log 5, 6) and every other byte as it was. An operation left over from
before a node reset has no other effect; every other raises MEMORY_ERROR. An inbound operation, a READ's buffer
freed, is answered with NAK MEMORY, placed at once or waiting at the head for a place (log 15); placed, it leaves,
and may end the drain of its window. A fetch is FETCH_MEMORY: it halts a mover in FETCHING, makes the look-ahead of
one in MOVING FAILED, and is no fault when discarded; the next fetch starts as `FetchDone` says. For a mover that
finishes pieces, a PULL write or PUSH read is its DATA_MEMORY fault, by `State.faults`, the read's buffer and tag
freed; while it drains, a write is a further fault and a read none, and it may be quiet now (R13, R16, R23, R27, R28,
R33, R34, R36, R37, R38, R39, R63, R72, R77, R95, R96, R113, R126, R127, R128, R129, R132, R163). At a timeout the
clock is at the timeout end, or later if it was later already (log 3); the element's counts are 0 when there is none
(log 19), and one that has completed in STOPPING is still the current one (log 30); the order of two occurrences is a
free value (log 11, 27). -/
def Obligations.MemoryTimesOut : Prop :=
  ∀ s : State, s.between →
    (∀ (n : Nat) (answer : BusAnswer), (∀ p, s.port.inFlight = some p → p.serial ≠ n) →
      exec (.memoryAnswer n answer) s = .next s)
    ∧ ∀ (p : PortOp) (i : Instr) (now : Time), s.port.inFlight = some p →
      i = .memoryTimeout ∧ now = max s.now p.timeoutEnd
        ∨ i = .memoryAnswer p.serial .error ∧ now = s.now →
      let out := exec i s
      let late : State := { s with port := { s.port with inFlight := none }, now := now }
      let left : State := match p.dir with
        | .read => late
        | .write bytes =>
          { late with
            cardMem := memLeave s.free s.cardMem p.cardAddr.toNat bytes, free := s.free + 1 }
      (∀ a : Nat,
        (∀ bytes, p.dir = .write bytes →
          ¬(p.cardAddr.toNat ≤ a ∧ a < p.cardAddr.toNat + bytes.length)) →
        memGet left.cardMem a = memGet s.cardMem a)
      ∧ (p.requester = none → out = .next left)
      ∧ (∀ o rest, p.requester = some .inbound → s.imq = o :: rest →
        (∀ b, o.kind = .read b → s.pool[b] = .held .responder .assigned) →
        let freed : State :=
          { left with pool := match o.kind with
              | .read b => s.pool.set b .free
              | .write _ _ => s.pool }
        (s.replyQueue.length < 8 → State.headLeaves
          { freed with
            replyQueue := s.replyQueue ++
              [{ producer := .inboundQueue, payload := .none, isReset := false
                 header := { dest := o.requester, source := slotByte s.ring.ownSlot, kind := 5
                             origin := o.origin, tag := o.tag
                             hops := byteOf s.mgmt.params.hopLimit, length := 0, flags := 0
                             ringAddr := o.ringAddr, seq := 6, status := 0 } }] }
          o rest (some .memoryError) out)
        ∧ (¬s.replyQueue.length < 8 → out = .next (State.takeOccurrence
            { freed with imq := { o with stage := .replying false } :: rest } .memoryError)))
      ∧ (∀ f, p.requester = some .fetch → s.fetcher.inFlight = some f →
        State.fetchFails
          { left with fetcher := Fetcher.start { s.fetcher with inFlight := none } } f out)
      ∧ ∀ m o rest, p.requester = some (.mover m) → (s.mover m).queue = o :: rest →
        let v := s.mover m
        let fault : Addr → Option TagNo → FaultRecord := fun a t =>
          { kind := .dataMemory, elemAddr := a, remote := some o.remote, tag := t, nak := none
            further := 0 }
        (∀ payload e, o.kind = .write payload → v.finishing → v.current = .element e → v.fault = none →
          (left.setMover m { v with queue := rest, piecesInFlight := v.piecesInFlight - 1 }).faults m
            (fault e.addr none) (some .memoryError) out)
        ∧ (∀ b t e, o.kind = .read b t → s.pool[b] = .held (.mover m) .assigned → v.finishing →
          v.current = .element e → v.fault = none →
          let given : State := State.setMover { left with pool := s.pool.set b .free } m
            { v with
              queue := rest, buffersHeld := v.buffersHeld - 1
              piecesInFlight := v.piecesInFlight - 1 }
          (t = none → given.faults m (fault e.addr none) (some .memoryError) out)
          ∧ ∀ k, t = some k → s.tags[k].owner = some m →
            (State.setMover { given with tags := s.tags.set k .free } m
              { given.mover m with tagsHeld := v.tagsHeld - 1 }).faults m (fault e.addr t)
              (some .memoryError) out)
        ∧ (∀ payload a, o.kind = .write payload → v.drains → v.currentAt a →
          (left.setMover m
            (Mover.withFault { v with queue := rest, piecesInFlight := v.piecesInFlight - 1 }
              (fault a none))).released m (some .memoryError) out)
        ∧ (∀ b t, o.kind = .read b t → s.pool[b] = .held (.mover m) .assigned → v.drains →
          (State.setMover { left with pool := s.pool.set b .free } m
            { v with
              queue := rest, buffersHeld := v.buffersHeld - 1
              piecesInFlight := v.piecesInFlight - 1 }).released m (some .memoryError) out)

/-! ### Movers -/

/-- A PUSH piece, when a mover finishing pieces has it as its next piece, holds fewer than 4 buffers, and a buffer
of 0–5 and a memory queue place are free, takes the lowest-numbered free buffer and the place and is counted as
issued. The tracked last piece of an element with ACK_REQ takes a tag as well, the lowest-numbered FREE one while
the mover is below its tag limit, which waits without a deadline. A piece that lacks one of these waits, and
nothing changes; nor does a mover issue anything in any other state, FAULTING and ABORTING among them (R24, R25, R38,
R47, R49, R108, R119). -/
def Obligations.PushPieceIssued : Prop :=
  (∀ (s : State) (m : MoverId), ¬(s.mover m).finishing →
    exec (.pushPieceIssue m) s = .next s ∧ exec (.trackedPieceIssue m) s = .next s)
  ∧ ∀ (s : State) (m : MoverId) (e : Element) (x : Xfer) (ack : Bool) (n : Nat),
    let v := s.mover m
    v.state = .moving ∨ v.state = .stopping .element → v.current = .element e → e.op = .push x ack →
    v.nextPiece = some n → n ≤ x.pieceCount →
    let p := x.piece n
    (∀ b : BufNo, v.buffersHeld < 4 → s.moverTakes b → v.queue.length < 2 →
      let issued : Option TagNo → Mover := fun t =>
        { v with
          issued := v.issued + p.length, piecesInFlight := v.piecesInFlight + 1
          nextPiece := some (n + 1), buffersHeld := v.buffersHeld + 1
          tagsHeld := if t = none then v.tagsHeld else v.tagsHeld + 1
          queue := v.queue ++
            [{ kind := .read b t, cardAddr := p.cardAddr, length := p.length, remote := p.remote
               stage := .queued }] }
      let taken := s.pool.set b (.held (.mover m) .assigned)
      (¬(ack = true ∧ n = x.pieceCount) →
        exec (.pushPieceIssue m) s = .next (State.setMover { s with pool := taken } m (issued none)))
      ∧ ∀ t : TagNo, ack = true → n = x.pieceCount → s.tagTaken m t →
        exec (.trackedPieceIssue m) s = .next
          (State.setMover
            { s with
              pool := taken
              tags := s.tags.set t (.waiting
                { origin := m, type := .ackedWrite, slot := x.slot, ringAddr := p.remote
                  length := p.length, elemAddr := e.addr } none) } m (issued (some t))))
    ∧ (4 ≤ v.buffersHeld ∨ (∀ b : BufNo, b.val ≤ 5 → ¬s.bufferFree b) ∨ 2 ≤ v.queue.length →
      exec (.pushPieceIssue m) s = .next s ∧ exec (.trackedPieceIssue m) s = .next s)
    ∧ (s.tagLacking m → exec (.trackedPieceIssue m) s = .next s)

/-- A PULL piece, when a mover finishing pieces has it as its next piece, is below its tag limit, and a tag and a
Request Queue place are free, takes the lowest-numbered FREE tag, places its READ cell and is counted as issued. A
piece that lacks one of these waits, and nothing changes; nor does a mover issue anything in any other state,
FAULTING and ABORTING among them (R26, R38, R47, R49, R50, R111). -/
def Obligations.PullPieceIssued : Prop :=
  (∀ (s : State) (m : MoverId), ¬(s.mover m).finishing → exec (.pullPieceIssue m) s = .next s)
  ∧ ∀ (s : State) (m : MoverId) (e : Element) (x : Xfer) (n : Nat),
    let v := s.mover m
    v.state = .moving ∨ v.state = .stopping .element → v.current = .element e → e.op = .pull x →
    v.nextPiece = some n → n ≤ x.pieceCount →
    let p := x.piece n
    (∀ t : TagNo, s.tagTaken m t → s.requestQueue.length < 8 →
      exec (.pullPieceIssue m) s = .next
        (State.setMover
          { s with
            tags := s.tags.set t (.waiting
              { origin := m, type := .read p.cardAddr, slot := x.slot, ringAddr := p.remote
                length := p.length, elemAddr := e.addr } none)
            requestQueue := s.requestQueue ++
              [{ kind := .read, mover := m, buffer := none
                 header := { dest := slotByte x.slot, source := slotByte s.ring.ownSlot, kind := 2
                             origin := moverByte m, tag := byteOf t.val
                             hops := byteOf s.mgmt.params.hopLimit, length := byteOf p.length
                             flags := 0, ringAddr := p.remote, seq := 0, status := 0 } }] } m
          { v with
            issued := v.issued + p.length, piecesInFlight := v.piecesInFlight + 1
            nextPiece := some (n + 1), tagsHeld := v.tagsHeld + 1 }))
    ∧ (s.tagLacking m ∨ 8 ≤ s.requestQueue.length → exec (.pullPieceIssue m) s = .next s)

/-- A FILLED read at the head of the memory queue places its WRITE cell when a Request Queue place is free: the
read leaves, and its buffer goes to QUEUED. With no place free it waits, and a mover that does not finish pieces
places no cell (R27, R38, R107, R111). -/
def Obligations.WriteCellPlaced : Prop :=
  (∀ (s : State) (m : MoverId), ¬(s.mover m).finishing ∨ 8 ≤ s.requestQueue.length →
    exec (.pushWritePlaced m) s = .next s)
  ∧ ∀ (s : State) (m : MoverId) (o : MemOp) (rest : List MemOp) (b : BufNo) (t : Option TagNo)
    (d : List Byte) (x : Xfer),
    let v := s.mover m
    v.state = .moving ∨ v.state = .stopping .element → v.queue = o :: rest → o.kind = .read b t →
    o.stage = .filled → v.xfer = some x → s.pool[b] = .held (.mover m) (.filled d) →
    s.requestQueue.length < 8 →
    let h : Header :=
      { dest := slotByte x.slot, source := slotByte s.ring.ownSlot, kind := 1, origin := moverByte m
        tag := tagByte t, hops := byteOf s.mgmt.params.hopLimit, length := byteOf o.length
        flags := if t = none then 0 else 1, ringAddr := o.remote, seq := 0, status := 0 }
    exec (.pushWritePlaced m) s = .next
      (State.setMover
        { s with
          pool := s.pool.set b (.held (.mover m) (.queued d h))
          requestQueue := s.requestQueue ++
            [{ kind := .write, mover := m, header := h, buffer := some b }] } m
        { v with queue := rest })

/-- R9: the pieces of an element are set by its remote address alone. They follow one another from the first
byte to the last, none crosses a multiple of 64, each has 1 to 64 bytes and all but the first and the last are
whole aligned blocks; and their number lies between the two bounds. -/
def Obligations.PieceSplit : Prop :=
  ∀ x : Xfer, 1 ≤ x.byteCount → x.byteCount ≤ 65536 →
    let a := x.remoteAddr.toNat
    let last := x.pieceCount
    let offset := x.pieceOffset
    let length := x.pieceLength
    (offset 1 = 0 ∧ length 1 = min x.byteCount (64 - a % 64))
    ∧ (∀ n, 1 ≤ n → n < last →
      offset (n + 1) = offset n + length n
        ∧ length (n + 1) = min 64 (x.byteCount - offset (n + 1)))
    ∧ offset last + length last = x.byteCount
    ∧ (∀ n, 1 ≤ n → n ≤ last →
      1 ≤ length n ∧ length n ≤ 64 ∧ (a + offset n) % 64 + length n ≤ 64
        ∧ (x.piece n).remote = x.remoteAddr + BitVec.ofNat 32 (offset n)
        ∧ (x.piece n).cardAddr = x.localAddr + BitVec.ofNat 32 (offset n)
        ∧ (x.piece n).length = length n ∧ ((x.piece n).last = true ↔ n = last))
    ∧ (∀ n, 1 < n → n < last → (a + offset n) % 64 = 0 ∧ length n = 64)
    ∧ (x.byteCount + 63) / 64 ≤ last ∧ last ≤ (x.byteCount + 63) / 64 + 1
    ∧ (x.byteCount = 65536 → last = if a % 64 = 0 then 1024 else 1025)

/-- R7: the validation of an element by its four checks in order. -/
def Obligations.ElementValidation : Prop :=
  ∀ (own : Slot) (addr : Addr) (bytes : List Byte),
    let op := byteAt bytes 0
    let flags := byteAt bytes 1
    let count := (wordAt bytes 4).toNat
    let checked := checkCode (bytes.take 20) = halfAt bytes 20
    let known := op = 1 ∨ op = 2 ∨ op = 3
    let outOfRange := (op = 1 ∨ op = 2) ∧
      (count = 0 ∨ 65536 < count ∨ 31 < (byteAt bytes 2).toNat ∨ byteAt bytes 2 = slotByte own
        ∨ 0x100000000 < (wordAt bytes 8).toNat + count)
    let misaligned := flags.getLsbD 0 = true ∧ (wordAt bytes 16).toNat % 8 ≠ 0
    let out := validateElement own addr bytes
    (¬checked → out = .failed .elementCheck)
    ∧ (checked → ¬known ∨ outOfRange ∨ misaligned → out = .failed .elementFormat)
    ∧ (checked → known → ¬outOfRange → ¬misaligned → ∃ e, out = .valid e ∧ e.addr = addr
        ∧ e.next = (if flags.getLsbD 0 = true then some (wordAt bytes 16) else none)
        ∧ e.stopAfter = flags.getLsbD 1 ∧ e.notify = flags.getLsbD 2
        ∧ let x : Xfer :=
            { slot := (byteAt bytes 2).setWidth 5, byteCount := count, localAddr := wordAt bytes 8
              remoteAddr := wordAt bytes 12 }
          (op = 1 → e.op = .push x (flags.getLsbD 3)) ∧ (op = 2 → e.op = .pull x)
            ∧ (op = 3 → e.op = .gate))

/-! ### Timers -/

/-- A deadline that passes takes its tag to QUARANTINED until a response timeout later and raises TAG_EXPIRED; the
owner of a WAITING tag takes RESPONSE_TIMEOUT, by `State.faults`; that of an ABANDONED tag takes no fault, and if it
is quiet now, FAULTING goes to HALTED with MOVERn_HALTED and ABORTING to IDLE with the deferred OK reply stored and
waiting. The end of the quarantine frees the tag and changes nothing else but the time (R36, R37, R38, R39, R52, R59,
R60, R61, R63, R113, R163). The clock is at the expiry, or later if it was later already (log 3); the element's
counts are 0 when there is none (log 19); the order of two occurrences is a free value (log 11, 27). Besides the
movers and what they own only the Event Unit and the time may change. -/
def Obligations.TagTimers : Prop :=
  ∀ (s : State) (t : TagNo) (i : TagInfo),
    let v := s.mover i.origin
    let counted : State → Prop := fun u =>
      u.events.records[Event.tagExpired.number] =
        { pending := true, count := min 255 (s.events.records[Event.tagExpired.number].count + 1) }
    let quarantined : Time → Tag := fun d =>
      .quarantined i (max s.now d + 16 * s.mgmt.params.responseTimeout)
    let given : Time → State := fun d => State.setMover
      { s with now := max s.now d, tags := s.tags.set t (quarantined d) } i.origin
      { v with tagsHeld := v.tagsHeld - 1, piecesInFlight := v.piecesInFlight - 1 }
    (∀ d, s.between → s.tags[t] = .waiting i (some d) → v.fault = none → v.finishing →
      (given d).faults i.origin
        { kind := .responseTimeout, elemAddr := i.elemAddr, remote := some i.ringAddr
          tag := some t, nak := none, further := 0 } (some .tagExpired) (exec (.tagDeadlineExpiry t) s))
    ∧ (∀ d, s.between → s.tags[t] = .abandoned i (some d) →
      ∃ u, exec (.tagDeadlineExpiry t) s = .next u
        ∧ State.actsOnMovers { s with now := max s.now d } u ∧ u.tags[t] = quarantined d ∧ counted u
        ∧ (u.mover i.origin).fault = v.fault ∧ (u.mover i.origin).tagsHeld = v.tagsHeld - 1)
    ∧ (∀ d, s.between → s.tags[t] = .abandoned i (some d) →
      (given d).released i.origin (some .tagExpired) (exec (.tagDeadlineExpiry t) s))
    ∧ ∀ e, s.tags[t] = .quarantined i e → exec (.tagQuarantineEnd t) s = .next
        { s with tags := s.tags.set t .free, now := max s.now e }

/-- The lapse timer takes a CLAIMED claim to LAPSED and stops. The repeat timer, in SENT, restarts, and forms an
ATTN with the same number and the pending set of that moment when none is waiting (R159, R193). The clock is at
the expiry, or later if it was later already (log 3). -/
def Obligations.CommandTimers : Prop :=
  ∀ (s : State) (m : Slot) (t : Time),
    (s.mgmt.claim = .claimed m → s.mgmt.lapseTimer = some t → exec .claimLapse s = .next
      { s with mgmt := { s.mgmt with claim := .lapsed m, lapseTimer := none }, now := max s.now t })
    ∧ (s.events.state = .sent → s.events.timer = some t → s.mgmt.claim.manager = some m →
      exec .attentionRepeat s = .next
        { s with
          now := max s.now t
          events :=
            { s.events with
              timer :=
                if s.mgmt.params.attentionRepeat = 0 then none
                else some (max s.now t + 1000 * s.mgmt.params.attentionRepeat)
              waiting :=
                match s.events.waiting with
                | some w => some w
                | none => some { dest := m, number := s.events.number
                                 pendingSet := s.events.pendingSet } } })

/-! ### The Management Unit -/

/-- A CLAIM of slot `m` in UNCLAIMED, or of the present manager with a new sequence, makes it the manager: the
OK reply is stored and waits, and the lapse timer restarts. The Event Unit gives up a waiting ATTN and stops its
timer, and raises a new attention to `m`, with the pending set of that moment, when an unmasked event is pending. A
takeover from LAPSED does so too and raises CLAIM_CHANGE, which may be taken before the report, and then raises an
attention that the report ends, or after it, and then need not be in the pending set. While another slot holds the
claim in CLAIMED, the reply is NOT_MANAGER (R159, R160, R168, R185, R190, R191, R192, R193). The order of the report
and CLAIM_CHANGE is a free value (log 12, 27). -/
def Obligations.ClaimAccepted : Prop :=
  ∀ (s : State) (c : RxCell) (m : Slot), s.between → s.offers c → s.mgmt.deferred = none →
    c.payload = [1] → c.header.source = slotByte m →
    let taken := s.answered c m .ok []
    let rep := s.mgmt.params.attentionRepeat
    let unmasked := fun u : State => ∃ n : Fin 16, u.events.records[n].pending = true
      ∧ s.mgmt.params.eventMask.getLsbD n.val = true
    let idle := fun u : State =>
      u.events = { s.events with records := u.events.records, state := .idle, timer := none, waiting := none }
    let raised := fun (u : State) (w : WaitingAttn) => u.events.state = .sent
      ∧ u.events.timer = (if rep = 0 then none else some (s.now + 1000 * rep))
      ∧ u.events.waiting = some w ∧ w.dest = m ∧ w.number = u.events.number
    (s.mgmt.claim = .unclaimed ∨
        (s.mgmt.claim.manager = some m ∧ (s.mgmt.stored = none ∨ s.mgmt.lastSeq ≠ some c.header.seq)) →
      ∃ u, exec .claim s = .next u ∧ u = { taken with events := u.events }
        ∧ u.events.records = s.events.records
        ∧ (unmasked s → ∃ w, raised u w ∧ u.events.number = s.events.number + 1
            ∧ ∀ k : Fin 16, w.pendingSet.getLsbD k.val = s.events.records[k].pending)
        ∧ (¬unmasked s → idle u))
    ∧ (∀ k, k ≠ m → s.mgmt.claim = .lapsed k →
      ∃ u, exec .claim s = .next u ∧ u = { taken with events := u.events, free := s.free + 1 }
        ∧ (∀ n : Fin 16, u.events.records[n] =
          if n = Event.claimChange.number then
            { pending := true, count := min 255 (s.events.records[n].count + 1) }
          else s.events.records[n])
        ∧ (unmasked u → ∃ w, raised u w
            ∧ (u.events.number = s.events.number + 1
              ∨ s.events.state = .idle ∧ u.events.number = s.events.number + 2)
            ∧ ((∀ k : Fin 16, w.pendingSet.getLsbD k.val = u.events.records[k].pending)
              ∨ unmasked s ∧ u.events.number = s.events.number + 1
                ∧ ∀ k : Fin 16, w.pendingSet.getLsbD k.val = s.events.records[k].pending))
        ∧ (¬unmasked u → idle u))
    ∧ (∀ k, k ≠ m → s.mgmt.claim = .claimed k →
      exec .claim s = .next (s.sentOnly c .notManager []))

/-- An executed RELEASE leaves no manager, no last-sequence, no stored reply and no lapse timer, returns the
attention state to IDLE, and its OK reply is sent and not stored; nothing else changes (R169, R191). -/
def Obligations.ReleaseExecuted : Prop :=
  ∀ (s : State) (c : RxCell) (m : Slot), s.between → s.newCommand c m → c.payload = [2] →
    exec .release s = .next
      { s with
        inbound := s.inbound.taken
        mgmt :=
          { s.mgmt with
            claim := .unclaimed, lapseTimer := none, lastSeq := none, stored := none
            replyLast := some (c.waitingReply .ok [] false) }
        events := { s.events with state := .idle, timer := none, waiting := none } }

/-- READ_STATUS, WINDOW_QUERY and MOVER_QUERY return their figures as they stand when the command is executed, at
the places and with the codes that their entries give, and change nothing but the Management Unit; a READ_STATUS of
another slot is sent and not stored. `State.statusReads`, `Window.reads` and `Mover.reads` spell the 22, 24 and 45
bytes out (R45, R79, R117, R160, R165, R170, R175, R181). The figures of READ_STATUS are read as log 17 and log 18
say: the claim is CLAIMED by the manager's cell, the cell has left the Receive Queue, the last-sequence is the
earlier one, and a buffer passed over after a reset point is not counted as free. The element that MOVER_QUERY shows
in STOPPING may be one that has completed (log 30). -/
def Obligations.QueriesExecuted : Prop :=
  ∀ (s : State) (c : RxCell) (m : Slot), s.between →
    (s.newCommand c m → c.payload = [3] →
      let now : State :=
        { s with inbound := s.inbound.taken, mgmt := { s.mgmt with claim := .claimed m } }
      exec .readStatus s = .next (s.answered c m .ok now.statusBytes)
        ∧ now.statusReads now.statusBytes)
    ∧ (s.offers c → s.mgmt.deferred = none → c.payload = [3] → c.header.source = slotByte m →
      s.mgmt.claim.manager ≠ some m →
      let now : State := { s with inbound := s.inbound.taken }
      exec .readStatus s = .next (s.sentOnly c .ok now.statusBytes)
        ∧ now.statusReads now.statusBytes)
    ∧ (∀ i : WindowNo, s.newCommand c m → c.payload = [8, byteOf i.val] →
      exec .windowQuery s = .next (s.answered c m .ok s.windows[i].bytes)
        ∧ s.windows[i].reads s.windows[i].bytes)
    ∧ (∀ k : MoverId, s.newCommand c m → c.payload = [0x0E, moverByte k] →
      exec .moverQuery s = .next (s.answered c m .ok (s.mover k).bytes)
        ∧ (s.mover k).reads (s.mover k).bytes)

/-- An executed READ_EVENTS returns the sixteen records, and leaves every count 0, every flag clear and the
attention state IDLE (R171, R187, R191). -/
def Obligations.EventsRead : Prop :=
  ∀ (s : State) (c : RxCell) (m : Slot), s.between → s.newCommand c m → c.payload = [4] →
    ∃ u, exec .readEvents s = .next u
      ∧ u = { s.answered c m .ok s.events.snapshotBytes with events := u.events }
      ∧ (∀ n : Fin 16, u.events.records[n] = { pending := false, count := 0 })
      ∧ u.events.state = .idle ∧ u.events.number = s.events.number ∧ u.events.timer = none
      ∧ u.events.waiting = none
      ∧ s.events.snapshotBytes.length = 32
      ∧ ∀ n : Fin 16,
          byteAt s.events.snapshotBytes (2 * n.val) = (if s.events.records[n].pending then 1 else 0)
          ∧ byteAt s.events.snapshotBytes (2 * n.val + 1) = byteOf s.events.records[n].count

/-- SET_PARAMS is refused with BAD_ARGUMENT for an unnamed presence value or a present field out of range, then
with WRONG_STATE for a present tag limit of a mover that is neither IDLE nor HALTED; a refused command changes
no parameter. One that passes applies its fields together, restarts the lapse timer with them, and returns the
whole set in ten bytes, in the field order of the request. A present event mask tests the attention condition, and
a changed attention repeat restarts a running repeat timer; one present with its old value may or may not (log 13).
An attention that it raises has the pending set of that moment (R159, R166, R172, R190, R192, R194). -/
def Obligations.ParamsSet : Prop :=
  ∀ (s : State) (c : RxCell) (m : Slot), s.between → s.newCommand c m →
    c.payload.length = 13 → byteAt c.payload 0 = 5 →
    let p := c.payload
    let has := fun n : Nat => (halfAt p 1).getLsbD n
    let field := fun i : Nat => (byteAt p i).toNat
    let outside := fun n i lo hi : Nat => has n = true ∧ (field i < lo ∨ hi < field i)
    let bad := 0x200 ≤ (halfAt p 1).toNat ∨ outside 0 3 1 255 ∨ outside 1 4 1 15 ∨ outside 4 7 1 15
      ∨ outside 5 8 1 31 ∨ outside 6 9 1 16 ∨ outside 7 10 1 16
    let busy := fun (n : Nat) (k : MoverId) =>
      has n = true ∧ (s.mover k).state ≠ .idle ∧ (s.mover k).state ≠ .halted
    let refused := busy 6 .m0 ∨ busy 7 .m1
    let old := s.mgmt.params
    let pick := fun (n i : Nat) (was : Nat) => if has n then field i else was
    let new : Params :=
      { responseTimeout := pick 0 3 old.responseTimeout, memoryTimeout := pick 1 4 old.memoryTimeout
        attentionRepeat := pick 2 5 old.attentionRepeat, claimLapse := pick 3 6 old.claimLapse
        passCount := pick 4 7 old.passCount, hopLimit := pick 5 8 old.hopLimit
        tagLimit0 := pick 6 9 old.tagLimit0, tagLimit1 := pick 7 10 old.tagLimit1
        eventMask := if has 8 then halfAt p 11 else old.eventMask }
    let results : List Byte :=
      [byteOf new.responseTimeout, byteOf new.memoryTimeout, byteOf new.attentionRepeat
       , byteOf new.claimLapse, byteOf new.passCount, byteOf new.hopLimit, byteOf new.tagLimit0
       , byteOf new.tagLimit1, new.eventMask.setWidth 8, (new.eventMask >>> 8).setWidth 8]
    let expiry : Option Time :=
      if new.attentionRepeat = 0 then none else some (s.now + 1000 * new.attentionRepeat)
    let due := has 8 = true ∧ s.events.state = .idle
      ∧ ∃ n : Fin 16, s.events.records[n].pending = true ∧ new.eventMask.getLsbD n.val = true
    (bad → exec .setParams s = .next (s.answered c m .badArgument []))
    ∧ (¬bad → refused → exec .setParams s = .next (s.answered c m .wrongState []))
    ∧ (¬bad → ¬refused → ∃ u, exec .setParams s = .next u
      ∧ u = { State.answered { s with mgmt := { s.mgmt with params := new } } c m .ok results with
              events := u.events }
      ∧ u.events.records = s.events.records
      ∧ (due → u.events.state = .sent ∧ u.events.number = s.events.number + 1 ∧ u.events.timer = expiry
          ∧ ∃ w, u.events.waiting = some w ∧ w.dest = m ∧ w.number = s.events.number + 1
            ∧ ∀ k : Fin 16, w.pendingSet.getLsbD k.val = s.events.records[k].pending)
      ∧ (¬due → u.events = { s.events with timer := u.events.timer }
          ∧ (has 2 = false ∨ s.events.state = .idle → u.events.timer = s.events.timer)
          ∧ (has 2 = true → s.events.state = .sent →
              u.events.timer = expiry
                ∨ (new.attentionRepeat = old.attentionRepeat ∧ u.events.timer = s.events.timer))))

/-- WINDOW_OPEN checks its arguments (BAD_ARGUMENT), then the entry (WRONG_STATE), then the ring ranges of the
windows in OPEN or DRAINING (OVERLAP); otherwise the entry becomes OPEN with the command's values and its counts
at 0 (R74, R75, R173). -/
def Obligations.WindowOpened : Prop :=
  ∀ (s : State) (c : RxCell) (m : Slot), s.between → s.newCommand c m →
    c.payload.length = 16 → byteAt c.payload 0 = 6 →
    let p := c.payload
    let index := (byteAt p 1).toNat
    let ringBase := wordAt p 2
    let k := (byteAt p 6).toNat
    let cardBase := wordAt p 7
    let rights := (byteAt p 11).toNat
    let mask := wordAt p 12
    let size := 4096 * 2 ^ k
    let bad := 15 < index ∨ 18 < k ∨ ringBase.toNat % size ≠ 0 ∨ cardBase.toNat % 4096 ≠ 0
      ∨ 0x100000000 < cardBase.toNat + size ∨ rights = 0 ∨ 3 < rights ∨ mask = 0
    let meets := fun i : WindowNo => s.windows[i].state ≠ .closed
      ∧ s.windows[i].ringBase.toNat < ringBase.toNat + size
      ∧ ringBase.toNat < s.windows[i].ringBase.toNat + 4096 * 2 ^ s.windows[i].sizeExp
    (bad → exec .windowOpen s = .next (s.answered c m .badArgument []))
    ∧ ∀ i : WindowNo, index = i.val → ¬bad →
      (s.windows[i].state ≠ .closed → exec .windowOpen s = .next (s.answered c m .wrongState []))
      ∧ (s.windows[i].state = .closed → (∃ j, meets j) →
        exec .windowOpen s = .next (s.answered c m .overlap []))
      ∧ (s.windows[i].state = .closed → (∀ j, ¬meets j) →
        exec .windowOpen s = .next
          { s.answered c m .ok [] with
            windows := s.windows.set i
              { state := .opened, ringBase := ringBase, sizeExp := k, cardBase := cardBase
                canRead := rights % 2 = 1, canWrite := 2 ≤ rights, mask := mask
                inFlight := 0, accepted := 0, refused := 0 } })

/-- WINDOW_CLOSE leaves a CLOSED entry CLOSED, closes an OPEN entry with nothing in flight, and takes any other
OPEN entry to DRAINING with its reply deferred; the entry's other fields are kept. An index above 15 is refused
with BAD_ARGUMENT (R76, R163, R174). -/
def Obligations.WindowClosed : Prop :=
  ∀ (s : State) (c : RxCell) (m : Slot) (b : Byte), s.between → s.newCommand c m → c.payload = [7, b] →
    (15 < b.toNat → exec .windowClose s = .next (s.answered c m .badArgument []))
    ∧ ∀ i : WindowNo, b = byteOf i.val →
      let w := s.windows[i]
      (w.state = .closed → exec .windowClose s = .next (s.answered c m .ok []))
      ∧ (w.state = .opened → w.inFlight = 0 → exec .windowClose s = .next
          { s.answered c m .ok [] with windows := s.windows.set i { w with state := .closed } })
      ∧ (w.state = .opened → w.inFlight ≠ 0 → exec .windowClose s = .next
          { s.deferredBy c m (.windowClose i) with
            windows := s.windows.set i { w with state := .draining } })

/-- MOVER_START is refused with BAD_ARGUMENT for an unknown mover or an address that is not a multiple of 8,
then with WRONG_STATE unless the mover is IDLE. Otherwise the mover clears its fault record, resume address and
count, requests the element and enters FETCHING: the fetch starts at once when none is in flight, and else waits
(R11, R12, R22, R176). -/
def Obligations.MoverStarted : Prop :=
  ∀ (s : State) (c : RxCell) (m : Slot), s.between → s.newCommand c m →
    c.payload.length = 6 → byteAt c.payload 0 = 9 →
    let a := wordAt c.payload 2
    (2 ≤ (byteAt c.payload 1).toNat ∨ a.toNat % 8 ≠ 0 →
      exec .moverStart s = .next (s.answered c m .badArgument []))
    ∧ ∀ k : MoverId, byteAt c.payload 1 = moverByte k → a.toNat % 8 = 0 →
      let v := s.mover k
      (v.state ≠ .idle → exec .moverStart s = .next (s.answered c m .wrongState []))
      ∧ (v.state = .idle → exec .moverStart s = .next
          (State.setMover
            { s.answered c m .ok [] with fetcher := s.fetcher.requested k a } k
            { v with
              state := .fetching, current := .address a, fault := none, resume := none
              completed := 0 }))

/-- MOVER_STOP: a mover in MOVING discards its look-ahead and enters STOPPING; one in FETCHING goes to IDLE when
its fetch is still waiting, and else enters STOPPING with the fetch discarded; one in GATED goes to IDLE;
STOPPING is unchanged; in IDLE, FAULTING and HALTED the command is refused (R14, R18, R32, R33, R34, R35, R177).
The element's counts are 0 when there is none (log 19). -/
def Obligations.MoverStopped : Prop :=
  ∀ (s : State) (c : RxCell) (m : Slot) (k : MoverId), s.between → s.newCommand c m →
    c.payload = [0x0A, moverByte k] →
    let v := s.mover k
    let done := s.answered c m .ok []
    let idle : Addr → Mover := fun a =>
      { v with
        state := .idle, current := .absent, nextPiece := none, issued := 0, settled := 0
        resume := some a }
    (v.state = .moving → v.lookAhead ≠ .pending → exec .moverStop s = .next
      (done.setMover k { v with state := .stopping .element, lookAhead := .none }))
    ∧ (∀ f, v.state = .moving → v.lookAhead = .pending → s.fetcher.inFlight = some f → f.mover = k →
      s.fetcher.waiting k = none →
      exec .moverStop s = .next
        (State.setMover
          { done with fetcher := { s.fetcher with inFlight := some { f with discarded := true } } } k
          { v with state := .stopping .element, lookAhead := .none }))
    ∧ (∀ f, v.state = .moving → v.lookAhead = .pending → s.fetcher.inFlight = some f → f.mover ≠ k →
      exec .moverStop s = .next
        (State.setMover { done with fetcher := s.fetcher.setWaiting k none } k
          { v with state := .stopping .element, lookAhead := .none }))
    ∧ (∀ f a, v.state = .fetching → v.current = .address a → s.fetcher.inFlight = some f → f.mover ≠ k →
      exec .moverStop s = .next
        (State.takeOccurrence
          (State.setMover { done with fetcher := s.fetcher.setWaiting k none } k (idle a))
          (.moverDone k)))
    ∧ (∀ f, v.state = .fetching → s.fetcher.inFlight = some f → f.mover = k →
      s.fetcher.waiting k = none →
      exec .moverStop s = .next
        (State.setMover
          { done with fetcher := { s.fetcher with inFlight := some { f with discarded := true } } } k
          { v with state := .stopping .fetch }))
    ∧ (∀ e, v.state = .gated → v.current = .element e → exec .moverStop s = .next
      ((done.setMover k (idle e.addr)).takeOccurrence (.moverDone k)))
    ∧ (∀ cause, v.state = .stopping cause → exec .moverStop s = .next done)
    ∧ (v.state = .idle ∨ v.state = .faulting ∨ v.state = .halted →
      exec .moverStop s = .next (s.answered c m .wrongState []))

/-- MOVER_RESUME completes the gate of a mover in GATED: it is counted, raises MOVERn_NOTIFY if asked, and then the
mover requests the next element, whose fetch starts at once when none is in flight and else waits, or goes to IDLE
with MOVERn_DONE. In any other state it is refused (R11, R12, R31, R178). The element's counts are 0 when there is
none (log 19). -/
def Obligations.GatePassed : Prop :=
  ∀ (s : State) (c : RxCell) (m : Slot) (k : MoverId), s.between → s.newCommand c m →
    c.payload = [0x0B, moverByte k] →
    let v := s.mover k
    let done := s.answered c m .ok []
    let notified : Element → State → State := fun e t =>
      if e.notify then t.takeOccurrence (.moverNotify k) else t
    (∀ e a, v.state = .gated → v.current = .element e → v.lookAhead = .none →
      e.stopAfter = false → e.next = some a →
      exec .moverResume s = .next
        (notified e (State.setMover
          { done with fetcher := s.fetcher.requested k a } k
          { v with
            state := .fetching, current := .address a, nextPiece := none, issued := 0, settled := 0
            completed := v.completed + 1 })))
    ∧ (∀ e, v.state = .gated → v.current = .element e → e.stopAfter = true ∨ e.next = none →
      exec .moverResume s = .next
        (State.takeOccurrence
          (notified e (done.setMover k
            { v with
              state := .idle, current := .absent, nextPiece := none, issued := 0, settled := 0
              resume := e.next, completed := v.completed + 1 })) (.moverDone k)))
    ∧ (v.state ≠ .gated → exec .moverResume s = .next (s.answered c m .wrongState []))

/-- MOVER_ABORT leaves an IDLE mover as it is and takes a HALTED one to IDLE. A mover in GATED or FETCHING that
has nothing but, at most, its fetch goes to IDLE at once without an event, or, while the fetch is in flight, to
ABORTING with the fetch discarded and its reply deferred. A mover in any state between withdraws, unless it is
FAULTING and has done so: `State.withdrawn` says what becomes of its cells, tags, buffers and fetch, and that those
of the other mover stay. It goes to IDLE at once when it is quiet, and else to ABORTING with the reply deferred; its
resume address is cleared and its fault record and its counts of elements kept. No event is raised (R14, R18, R38,
R39, R43, R63, R109, R113, R149, R163, R179). The element's counts are 0 when there is none (log 19). Other blocks
than the movers and the Management Unit are unchanged, but for the pass counter and the buffers, tags and cells that
the mover owns. -/
def Obligations.MoverAborted : Prop :=
  ∀ (s : State) (c : RxCell) (m : Slot) (k : MoverId), s.between → s.newCommand c m →
    c.payload = [0x0C, moverByte k] →
    let v := s.mover k
    let done := s.answered c m .ok []
    let bare := v.queue = [] ∧ v.pendingWrites = 0 ∧ v.lookAhead = .none ∧ s.tagsOwned k = 0
      ∧ s.holdsBuffer k = false ∧ (∀ q ∈ s.requestQueue, q.mover ≠ k)
      ∧ (s.requestQueue = [] → s.replyQueue = [] → s.ring.passCounter = 0)
    (v.state = .idle → exec .moverAbort s = .next done)
    ∧ (v.state = .halted → exec .moverAbort s = .next (done.setMover k { v with state := .idle }))
    ∧ (v.state = .gated ∨ v.state = .fetching → bare → (∀ f, s.fetcher.inFlight = some f → f.mover ≠ k) →
      exec .moverAbort s = .next
        (State.setMover { done with fetcher := s.fetcher.setWaiting k none } k
          { v with
            state := .idle, current := .absent, nextPiece := none, issued := 0, settled := 0
            resume := none }))
    ∧ (∀ f, v.state = .fetching → bare → s.fetcher.inFlight = some f → f.mover = k →
      s.fetcher.waiting k = none →
      exec .moverAbort s = .next
        (State.setMover
          { s.deferredBy c m (.moverAbort k) with
            fetcher := { s.fetcher with inFlight := some { f with discarded := true } } } k
          { v with state := .aborting, resume := none }))
    ∧ (v.state = .faulting → ¬s.isQuiet k → exec .moverAbort s = .next
      ((s.deferredBy c m (.moverAbort k)).setMover k { v with state := .aborting, resume := none }))
    ∧ (v.state ≠ .idle → v.state ≠ .halted → ∃ u, exec .moverAbort s = .next u
        ∧ (u.isQuiet k → (u.mover k).state = .idle ∧ u.mgmt = done.mgmt)
        ∧ (¬u.isQuiet k → (u.mover k).state = .aborting
            ∧ u.mgmt = (s.deferredBy c m (.moverAbort k)).mgmt)
        ∧ (u.mover k).resume = none ∧ (u.mover k).fault = v.fault
        ∧ (u.mover k).completed = v.completed
        ∧ State.actsOnMovers { s with inbound := s.inbound.taken, mgmt := u.mgmt } u
        ∧ u.events = s.events ∧ (v.state ≠ .faulting → s.withdrawn u k))

/-- R44 and R180: MOVER_CLEAR takes a HALTED mover to IDLE, keeping its fault record and raising no event; in
any other state it is refused with WRONG_STATE, and an unknown mover with BAD_ARGUMENT. -/
def Obligations.MoverCleared : Prop :=
  ∀ (s : State) (c : RxCell) (m : Slot) (b : Byte), s.between → s.newCommand c m →
    c.payload = [0x0D, b] →
    (2 ≤ b.toNat → exec .moverClear s = .next (s.answered c m .badArgument []))
    ∧ ∀ k : MoverId, b = moverByte k →
      ((s.mover k).state = .halted → exec .moverClear s = .next
        ((s.answered c m .ok []).setMover k { s.mover k with state := .idle }))
      ∧ ((s.mover k).state ≠ .halted →
        exec .moverClear s = .next (s.answered c m .wrongState []))

/-- NODE_RESET stores its OK reply, marks it as the reset reply, and puts the Management Unit in RESETTING;
every other block runs on (R182). -/
def Obligations.NodeResetTaken : Prop :=
  ∀ (s : State) (c : RxCell) (m : Slot), s.between → s.newCommand c m → c.payload = [0x0F] →
    let t := s.answered c m .ok []
    exec .nodeReset s = .next
      { t with mgmt :=
        { t.mgmt with mode := .resetting, replyLast := some (c.waitingReply .ok [] true) } }

/-- A cell from the manager that the unit takes is not executed in two cases, whatever its command. While a
command is deferred, a duplicate of it is ignored and any other cell is answered BUSY. A cell that repeats the
last sequence receives the stored reply again. The lapse timer restarts each time (R159, R161, R162). -/
def Obligations.ManagerCellsRepeated : Prop :=
  ∀ (s : State) (i : Instr) (k : Option Command) (c : RxCell) (m : Slot), s.between → i.managed = some k →
    s.offers c → commandOf c.payload = k → s.mgmt.claim.manager = some m →
    c.header.source = slotByte m →
    let t : Option WaitingReply → State := fun r =>
      { s with
        inbound := s.inbound.taken
        mgmt :=
          { s.mgmt with
            claim := .claimed m, lapseTimer := lapseExpiry s.now s.mgmt.params.claimLapse
            replyLast := r } }
    (∀ d, s.mgmt.deferred = some d → d.seq = c.header.seq → exec i s = .next (t none))
    ∧ (∀ d, s.mgmt.deferred = some d → d.seq ≠ c.header.seq →
      exec i s = .next (t (some (c.waitingReply .busy [] false))))
    ∧ (∀ r, s.mgmt.deferred = none → s.mgmt.stored = some r → s.mgmt.lastSeq = some c.header.seq →
      exec i s = .next
        (t (some { c.waitingReply r.status [] false with payload := r.payload })))

/-- A cell from a non-manager is answered NOT_MANAGER, but for CLAIM and READ_STATUS, which are answered BUSY
while a command is deferred and BAD_ARGUMENT for a wrong length; one from a source above 31 is discarded, and in
RESETTING every cell is. From the manager an unknown code or an empty payload is answered BAD_COMMAND, and a
wrong length, or a mover or window that there is not, BAD_ARGUMENT, and these replies are stored (R157, R160,
R162, R175, R177, R178, R179, R181). -/
def Obligations.CommandsRefused : Prop :=
  ∀ (s : State) (i : Instr) (k : Option Command) (c : RxCell), s.between → i.managed = some k →
    s.inbound.hand = some .management → s.inbound.queue.head? = some c → commandOf c.payload = k →
    let gone : State := { s with inbound := s.inbound.taken }
    (s.mgmt.mode = .resetting → exec i s = .next gone)
    ∧ (s.offers c → 31 < c.header.source.toNat → exec i s = .next gone)
    ∧ (s.offers c → c.header.source.toNat ≤ 31 →
      (∀ m, s.mgmt.claim.manager = some m → c.header.source ≠ slotByte m) →
      (k ≠ some .claim → k ≠ some .readStatus → exec i s = .next (s.sentOnly c .notManager []))
      ∧ (k = some .claim ∨ k = some .readStatus →
        (s.mgmt.deferred ≠ none → exec i s = .next (s.sentOnly c .busy []))
        ∧ (s.mgmt.deferred = none → c.payload.length ≠ 1 →
          exec i s = .next (s.sentOnly c .badArgument []))))
    ∧ (∀ m, s.newCommand c m → k = none → exec i s = .next (s.answered c m .badCommand []))
    ∧ (∀ m cmd, s.newCommand c m → k = some cmd →
      c.payload.length ≠ cmd.requestLength
        ∨ (cmd = .windowQuery ∧ 15 < (byteAt c.payload 1).toNat)
        ∨ ((cmd = .moverStop ∨ cmd = .moverResume ∨ cmd = .moverAbort ∨ cmd = .moverQuery)
          ∧ 2 ≤ (byteAt c.payload 1).toNat) →
      exec i s = .next (s.answered c m .badArgument []))

/-! ### What every step keeps -/

/-- Every step keeps every queue within its capacity, every parameter and the pass counter in its range, the
canonical form of the record of card memory, and that nothing is left between steps. What is left between steps
is the model's own (log 11). -/
def Obligations.StepKeepsCapacity : Prop :=
  ∀ s t : State, s.withinCapacity → s.paramsInRange → s.memoryWf → s.between → step s = .next t →
    t.withinCapacity ∧ t.paramsInRange ∧ t.memoryWf ∧ t.between

/-- Every step keeps the windows in OPEN or DRAINING disjoint (R67), each window's in-flight count the number of
its operations in the Inbound Memory Queue (R72), and that queue's stages (R91). -/
def Obligations.StepKeepsWindows : Prop :=
  ∀ s t : State, s.windowsDisjoint → s.inFlightTrue → s.inboundStaged → step s = .next t →
    t.windowsDisjoint ∧ t.inFlightTrue ∧ t.inboundStaged

/-- Every step keeps each mover's counts of the tags it owns and of the buffers it holds true, at most 4
buffers, all of buffers 0–5 (R47, R106). -/
def Obligations.StepKeepsMoverCounts : Prop :=
  ∀ s t : State, s.tagsSound → s.buffersSound → step s = .next t → t.tagsSound ∧ t.buffersSound

/-- Every step keeps it so that a window is DRAINING, and a mover ABORTING, exactly while its close or abort is
the deferred command (R43, R76, R163). -/
def Obligations.StepKeepsDeferral : Prop :=
  ∀ s t : State, s.deferredTrue → step s = .next t → t.deferredTrue

/-- Every step keeps the event records sound and leaves no attention due (R185, R189, R190). -/
def Obligations.StepKeepsEventUnit : Prop :=
  ∀ s t : State, s.recordsSound → s.attentionSettled → step s = .next t →
    t.recordsSound ∧ t.attentionSettled

/-- Right after reset all the properties hold that every step keeps. -/
def Obligations.ResetHoldsInvariants : Prop :=
  let s := State.reset
  s.withinCapacity ∧ s.paramsInRange ∧ s.memoryWf ∧ s.between ∧ s.windowsDisjoint ∧ s.inFlightTrue
    ∧ s.inboundStaged ∧ s.tagsSound ∧ s.buffersSound ∧ s.deferredTrue ∧ s.recordsSound
    ∧ s.attentionSettled

/-- What only a few commands change: the own slot (HARD_RESET), the record of card memory (the end of an
operation on the bus), the parameters (SET_PARAMS and the resets), and the order of transit cells, which leave
only from the head (R126, R146, R152, R166). The record of card memory is the model's own (log 5), and so are the
commands waiting, which no command changes, and the time, which never goes back (log 2, 3, 24, 25). -/
def Obligations.OnlyTheseChange : Prop :=
  ∀ (i : Instr) (s t : State), exec i s = .next t →
    ((∀ pins, i ≠ .hardReset pins) → t.ring.ownSlot = s.ring.ownSlot
      ∧ (t.cardMem ≠ s.cardMem → i = .memoryTimeout ∨ ∃ serial answer, i = .memoryAnswer serial answer)
      ∧ (t.mgmt.params ≠ s.mgmt.params → i = .setParams ∨ ∃ first, i = .cellFinished first)
      ∧ ((t.ring.transit = s.ring.transit)
        ∨ (∃ frame bad f, i = .cellReceived frame bad ∧ t.ring.transit = s.ring.transit ++ [f])
        ∨ (∃ f, (∃ r, i = .ringOutChoice r ∨ i = .cellFinished r) ∧ s.ring.transit = f :: t.ring.transit)))
    ∧ t.pending = s.pending ∧ s.now ≤ t.now

end Statements
end

