-- ==== Sys2Proof/Laws/State.lean ====
section
/-! SUPPORT. One lemma per field for each plain update of State, so that no proof unfolds a record update. -/

namespace Sys2Proof.Machine

variable (s : State)

/-! ### raise -/

@[simp] theorem State.raise_ring (e : Event) : (s.raise e).ring = s.ring := rfl
@[simp] theorem State.raise_inbound (e : Event) : (s.raise e).inbound = s.inbound := rfl
@[simp] theorem State.raise_imq (e : Event) : (s.raise e).imq = s.imq := rfl
@[simp] theorem State.raise_windows (e : Event) : (s.raise e).windows = s.windows := rfl
@[simp] theorem State.raise_pool (e : Event) : (s.raise e).pool = s.pool := rfl
@[simp] theorem State.raise_requestQueue (e : Event) : (s.raise e).requestQueue = s.requestQueue := rfl
@[simp] theorem State.raise_replyQueue (e : Event) : (s.raise e).replyQueue = s.replyQueue := rfl
@[simp] theorem State.raise_fetcher (e : Event) : (s.raise e).fetcher = s.fetcher := rfl
@[simp] theorem State.raise_mover0 (e : Event) : (s.raise e).mover0 = s.mover0 := rfl
@[simp] theorem State.raise_mover1 (e : Event) : (s.raise e).mover1 = s.mover1 := rfl
@[simp] theorem State.raise_tags (e : Event) : (s.raise e).tags = s.tags := rfl
@[simp] theorem State.raise_port (e : Event) : (s.raise e).port = s.port := rfl
@[simp] theorem State.raise_mgmt (e : Event) : (s.raise e).mgmt = s.mgmt := rfl
@[simp] theorem State.raise_events (e : Event) : (s.raise e).events = s.events := rfl
@[simp] theorem State.raise_cardMem (e : Event) : (s.raise e).cardMem = s.cardMem := rfl
@[simp] theorem State.raise_now (e : Event) : (s.raise e).now = s.now := rfl
@[simp] theorem State.raise_free (e : Event) : (s.raise e).free = s.free := rfl
@[simp] theorem State.raise_raised (e : Event) : (s.raise e).raised = s.raised ++ [e] := rfl
@[simp] theorem State.raise_pending (e : Event) : (s.raise e).pending = s.pending := rfl
@[simp] theorem State.raise_mover (e : Event) (who : MoverId) : (s.raise e).mover who = s.mover who := by
  cases who <;> rfl

/-! ### setTag -/

@[simp] theorem State.setTag_ring (t : TagNo) (v : Tag) : (s.setTag t v).ring = s.ring := rfl
@[simp] theorem State.setTag_inbound (t : TagNo) (v : Tag) : (s.setTag t v).inbound = s.inbound := rfl
@[simp] theorem State.setTag_imq (t : TagNo) (v : Tag) : (s.setTag t v).imq = s.imq := rfl
@[simp] theorem State.setTag_windows (t : TagNo) (v : Tag) : (s.setTag t v).windows = s.windows := rfl
@[simp] theorem State.setTag_pool (t : TagNo) (v : Tag) : (s.setTag t v).pool = s.pool := rfl
@[simp] theorem State.setTag_requestQueue (t : TagNo) (v : Tag) :
    (s.setTag t v).requestQueue = s.requestQueue := rfl
@[simp] theorem State.setTag_replyQueue (t : TagNo) (v : Tag) :
    (s.setTag t v).replyQueue = s.replyQueue := rfl
@[simp] theorem State.setTag_fetcher (t : TagNo) (v : Tag) : (s.setTag t v).fetcher = s.fetcher := rfl
@[simp] theorem State.setTag_mover0 (t : TagNo) (v : Tag) : (s.setTag t v).mover0 = s.mover0 := rfl
@[simp] theorem State.setTag_mover1 (t : TagNo) (v : Tag) : (s.setTag t v).mover1 = s.mover1 := rfl
@[simp] theorem State.setTag_tags (t : TagNo) (v : Tag) : (s.setTag t v).tags = s.tags.set t v := rfl
@[simp] theorem State.setTag_port (t : TagNo) (v : Tag) : (s.setTag t v).port = s.port := rfl
@[simp] theorem State.setTag_mgmt (t : TagNo) (v : Tag) : (s.setTag t v).mgmt = s.mgmt := rfl
@[simp] theorem State.setTag_events (t : TagNo) (v : Tag) : (s.setTag t v).events = s.events := rfl
@[simp] theorem State.setTag_cardMem (t : TagNo) (v : Tag) : (s.setTag t v).cardMem = s.cardMem := rfl
@[simp] theorem State.setTag_now (t : TagNo) (v : Tag) : (s.setTag t v).now = s.now := rfl
@[simp] theorem State.setTag_free (t : TagNo) (v : Tag) : (s.setTag t v).free = s.free := rfl
@[simp] theorem State.setTag_raised (t : TagNo) (v : Tag) : (s.setTag t v).raised = s.raised := rfl
@[simp] theorem State.setTag_pending (t : TagNo) (v : Tag) : (s.setTag t v).pending = s.pending := rfl
@[simp] theorem State.setTag_mover (t : TagNo) (v : Tag) (who : MoverId) : (s.setTag t v).mover who = s.mover who := by
  cases who <;> rfl

/-! ### setBuffer -/

@[simp] theorem State.setBuffer_ring (b : BufNo) (v : Buffer) : (s.setBuffer b v).ring = s.ring := rfl
@[simp] theorem State.setBuffer_inbound (b : BufNo) (v : Buffer) :
    (s.setBuffer b v).inbound = s.inbound := rfl
@[simp] theorem State.setBuffer_imq (b : BufNo) (v : Buffer) : (s.setBuffer b v).imq = s.imq := rfl
@[simp] theorem State.setBuffer_windows (b : BufNo) (v : Buffer) :
    (s.setBuffer b v).windows = s.windows := rfl
@[simp] theorem State.setBuffer_pool (b : BufNo) (v : Buffer) :
    (s.setBuffer b v).pool = s.pool.set b v := rfl
@[simp] theorem State.setBuffer_requestQueue (b : BufNo) (v : Buffer) :
    (s.setBuffer b v).requestQueue = s.requestQueue := rfl
@[simp] theorem State.setBuffer_replyQueue (b : BufNo) (v : Buffer) :
    (s.setBuffer b v).replyQueue = s.replyQueue := rfl
@[simp] theorem State.setBuffer_fetcher (b : BufNo) (v : Buffer) :
    (s.setBuffer b v).fetcher = s.fetcher := rfl
@[simp] theorem State.setBuffer_mover0 (b : BufNo) (v : Buffer) : (s.setBuffer b v).mover0 = s.mover0 := rfl
@[simp] theorem State.setBuffer_mover1 (b : BufNo) (v : Buffer) : (s.setBuffer b v).mover1 = s.mover1 := rfl
@[simp] theorem State.setBuffer_tags (b : BufNo) (v : Buffer) : (s.setBuffer b v).tags = s.tags := rfl
@[simp] theorem State.setBuffer_port (b : BufNo) (v : Buffer) : (s.setBuffer b v).port = s.port := rfl
@[simp] theorem State.setBuffer_mgmt (b : BufNo) (v : Buffer) : (s.setBuffer b v).mgmt = s.mgmt := rfl
@[simp] theorem State.setBuffer_events (b : BufNo) (v : Buffer) : (s.setBuffer b v).events = s.events := rfl
@[simp] theorem State.setBuffer_cardMem (b : BufNo) (v : Buffer) :
    (s.setBuffer b v).cardMem = s.cardMem := rfl
@[simp] theorem State.setBuffer_now (b : BufNo) (v : Buffer) : (s.setBuffer b v).now = s.now := rfl
@[simp] theorem State.setBuffer_free (b : BufNo) (v : Buffer) : (s.setBuffer b v).free = s.free := rfl
@[simp] theorem State.setBuffer_raised (b : BufNo) (v : Buffer) : (s.setBuffer b v).raised = s.raised := rfl
@[simp] theorem State.setBuffer_pending (b : BufNo) (v : Buffer) :
    (s.setBuffer b v).pending = s.pending := rfl
@[simp] theorem State.setBuffer_mover (b : BufNo) (v : Buffer) (who : MoverId) : (s.setBuffer b v).mover who = s.mover who := by
  cases who <;> rfl

/-! ### setWindow -/

@[simp] theorem State.setWindow_ring (w : WindowNo) (v : Window) : (s.setWindow w v).ring = s.ring := rfl
@[simp] theorem State.setWindow_inbound (w : WindowNo) (v : Window) :
    (s.setWindow w v).inbound = s.inbound := rfl
@[simp] theorem State.setWindow_imq (w : WindowNo) (v : Window) : (s.setWindow w v).imq = s.imq := rfl
@[simp] theorem State.setWindow_windows (w : WindowNo) (v : Window) :
    (s.setWindow w v).windows = s.windows.set w v := rfl
@[simp] theorem State.setWindow_pool (w : WindowNo) (v : Window) : (s.setWindow w v).pool = s.pool := rfl
@[simp] theorem State.setWindow_requestQueue (w : WindowNo) (v : Window) :
    (s.setWindow w v).requestQueue = s.requestQueue := rfl
@[simp] theorem State.setWindow_replyQueue (w : WindowNo) (v : Window) :
    (s.setWindow w v).replyQueue = s.replyQueue := rfl
@[simp] theorem State.setWindow_fetcher (w : WindowNo) (v : Window) :
    (s.setWindow w v).fetcher = s.fetcher := rfl
@[simp] theorem State.setWindow_mover0 (w : WindowNo) (v : Window) :
    (s.setWindow w v).mover0 = s.mover0 := rfl
@[simp] theorem State.setWindow_mover1 (w : WindowNo) (v : Window) :
    (s.setWindow w v).mover1 = s.mover1 := rfl
@[simp] theorem State.setWindow_tags (w : WindowNo) (v : Window) : (s.setWindow w v).tags = s.tags := rfl
@[simp] theorem State.setWindow_port (w : WindowNo) (v : Window) : (s.setWindow w v).port = s.port := rfl
@[simp] theorem State.setWindow_mgmt (w : WindowNo) (v : Window) : (s.setWindow w v).mgmt = s.mgmt := rfl
@[simp] theorem State.setWindow_events (w : WindowNo) (v : Window) :
    (s.setWindow w v).events = s.events := rfl
@[simp] theorem State.setWindow_cardMem (w : WindowNo) (v : Window) :
    (s.setWindow w v).cardMem = s.cardMem := rfl
@[simp] theorem State.setWindow_now (w : WindowNo) (v : Window) : (s.setWindow w v).now = s.now := rfl
@[simp] theorem State.setWindow_free (w : WindowNo) (v : Window) : (s.setWindow w v).free = s.free := rfl
@[simp] theorem State.setWindow_raised (w : WindowNo) (v : Window) :
    (s.setWindow w v).raised = s.raised := rfl
@[simp] theorem State.setWindow_pending (w : WindowNo) (v : Window) :
    (s.setWindow w v).pending = s.pending := rfl
@[simp] theorem State.setWindow_mover (w : WindowNo) (v : Window) (who : MoverId) : (s.setWindow w v).mover who = s.mover who := by
  cases who <;> rfl

/-! ### placeReply -/

@[simp] theorem State.placeReply_ring (c : ReplyCell) : (s.placeReply c).ring = s.ring := rfl
@[simp] theorem State.placeReply_inbound (c : ReplyCell) : (s.placeReply c).inbound = s.inbound := rfl
@[simp] theorem State.placeReply_imq (c : ReplyCell) : (s.placeReply c).imq = s.imq := rfl
@[simp] theorem State.placeReply_windows (c : ReplyCell) : (s.placeReply c).windows = s.windows := rfl
@[simp] theorem State.placeReply_pool (c : ReplyCell) : (s.placeReply c).pool = s.pool := rfl
@[simp] theorem State.placeReply_requestQueue (c : ReplyCell) :
    (s.placeReply c).requestQueue = s.requestQueue := rfl
@[simp] theorem State.placeReply_replyQueue (c : ReplyCell) :
    (s.placeReply c).replyQueue = s.replyQueue ++ [c] := rfl
@[simp] theorem State.placeReply_fetcher (c : ReplyCell) : (s.placeReply c).fetcher = s.fetcher := rfl
@[simp] theorem State.placeReply_mover0 (c : ReplyCell) : (s.placeReply c).mover0 = s.mover0 := rfl
@[simp] theorem State.placeReply_mover1 (c : ReplyCell) : (s.placeReply c).mover1 = s.mover1 := rfl
@[simp] theorem State.placeReply_tags (c : ReplyCell) : (s.placeReply c).tags = s.tags := rfl
@[simp] theorem State.placeReply_port (c : ReplyCell) : (s.placeReply c).port = s.port := rfl
@[simp] theorem State.placeReply_mgmt (c : ReplyCell) : (s.placeReply c).mgmt = s.mgmt := rfl
@[simp] theorem State.placeReply_events (c : ReplyCell) : (s.placeReply c).events = s.events := rfl
@[simp] theorem State.placeReply_cardMem (c : ReplyCell) : (s.placeReply c).cardMem = s.cardMem := rfl
@[simp] theorem State.placeReply_now (c : ReplyCell) : (s.placeReply c).now = s.now := rfl
@[simp] theorem State.placeReply_free (c : ReplyCell) : (s.placeReply c).free = s.free := rfl
@[simp] theorem State.placeReply_raised (c : ReplyCell) : (s.placeReply c).raised = s.raised := rfl
@[simp] theorem State.placeReply_pending (c : ReplyCell) : (s.placeReply c).pending = s.pending := rfl
@[simp] theorem State.placeReply_mover (c : ReplyCell) (who : MoverId) : (s.placeReply c).mover who = s.mover who := by
  cases who <;> rfl

/-! ### placeRequest -/

@[simp] theorem State.placeRequest_ring (c : RequestCell) : (s.placeRequest c).ring = s.ring := rfl
@[simp] theorem State.placeRequest_inbound (c : RequestCell) : (s.placeRequest c).inbound = s.inbound := rfl
@[simp] theorem State.placeRequest_imq (c : RequestCell) : (s.placeRequest c).imq = s.imq := rfl
@[simp] theorem State.placeRequest_windows (c : RequestCell) : (s.placeRequest c).windows = s.windows := rfl
@[simp] theorem State.placeRequest_pool (c : RequestCell) : (s.placeRequest c).pool = s.pool := rfl
@[simp] theorem State.placeRequest_requestQueue (c : RequestCell) :
    (s.placeRequest c).requestQueue = s.requestQueue ++ [c] := rfl
@[simp] theorem State.placeRequest_replyQueue (c : RequestCell) :
    (s.placeRequest c).replyQueue = s.replyQueue := rfl
@[simp] theorem State.placeRequest_fetcher (c : RequestCell) : (s.placeRequest c).fetcher = s.fetcher := rfl
@[simp] theorem State.placeRequest_mover0 (c : RequestCell) : (s.placeRequest c).mover0 = s.mover0 := rfl
@[simp] theorem State.placeRequest_mover1 (c : RequestCell) : (s.placeRequest c).mover1 = s.mover1 := rfl
@[simp] theorem State.placeRequest_tags (c : RequestCell) : (s.placeRequest c).tags = s.tags := rfl
@[simp] theorem State.placeRequest_port (c : RequestCell) : (s.placeRequest c).port = s.port := rfl
@[simp] theorem State.placeRequest_mgmt (c : RequestCell) : (s.placeRequest c).mgmt = s.mgmt := rfl
@[simp] theorem State.placeRequest_events (c : RequestCell) : (s.placeRequest c).events = s.events := rfl
@[simp] theorem State.placeRequest_cardMem (c : RequestCell) : (s.placeRequest c).cardMem = s.cardMem := rfl
@[simp] theorem State.placeRequest_now (c : RequestCell) : (s.placeRequest c).now = s.now := rfl
@[simp] theorem State.placeRequest_free (c : RequestCell) : (s.placeRequest c).free = s.free := rfl
@[simp] theorem State.placeRequest_raised (c : RequestCell) : (s.placeRequest c).raised = s.raised := rfl
@[simp] theorem State.placeRequest_pending (c : RequestCell) : (s.placeRequest c).pending = s.pending := rfl
@[simp] theorem State.placeRequest_mover (c : RequestCell) (who : MoverId) : (s.placeRequest c).mover who = s.mover who := by
  cases who <;> rfl

/-! ### requestFetch -/

@[simp] theorem State.requestFetch_ring (m : MoverId) (a : Addr) : (s.requestFetch m a).ring = s.ring := rfl
@[simp] theorem State.requestFetch_inbound (m : MoverId) (a : Addr) :
    (s.requestFetch m a).inbound = s.inbound := rfl
@[simp] theorem State.requestFetch_imq (m : MoverId) (a : Addr) : (s.requestFetch m a).imq = s.imq := rfl
@[simp] theorem State.requestFetch_windows (m : MoverId) (a : Addr) :
    (s.requestFetch m a).windows = s.windows := rfl
@[simp] theorem State.requestFetch_pool (m : MoverId) (a : Addr) : (s.requestFetch m a).pool = s.pool := rfl
@[simp] theorem State.requestFetch_requestQueue (m : MoverId) (a : Addr) :
    (s.requestFetch m a).requestQueue = s.requestQueue := rfl
@[simp] theorem State.requestFetch_replyQueue (m : MoverId) (a : Addr) :
    (s.requestFetch m a).replyQueue = s.replyQueue := rfl
@[simp] theorem State.requestFetch_fetcher (m : MoverId) (a : Addr) :
    (s.requestFetch m a).fetcher = s.fetcher.setWaiting m (some a) := rfl
@[simp] theorem State.requestFetch_mover0 (m : MoverId) (a : Addr) :
    (s.requestFetch m a).mover0 = s.mover0 := rfl
@[simp] theorem State.requestFetch_mover1 (m : MoverId) (a : Addr) :
    (s.requestFetch m a).mover1 = s.mover1 := rfl
@[simp] theorem State.requestFetch_tags (m : MoverId) (a : Addr) : (s.requestFetch m a).tags = s.tags := rfl
@[simp] theorem State.requestFetch_port (m : MoverId) (a : Addr) : (s.requestFetch m a).port = s.port := rfl
@[simp] theorem State.requestFetch_mgmt (m : MoverId) (a : Addr) : (s.requestFetch m a).mgmt = s.mgmt := rfl
@[simp] theorem State.requestFetch_events (m : MoverId) (a : Addr) :
    (s.requestFetch m a).events = s.events := rfl
@[simp] theorem State.requestFetch_cardMem (m : MoverId) (a : Addr) :
    (s.requestFetch m a).cardMem = s.cardMem := rfl
@[simp] theorem State.requestFetch_now (m : MoverId) (a : Addr) : (s.requestFetch m a).now = s.now := rfl
@[simp] theorem State.requestFetch_free (m : MoverId) (a : Addr) : (s.requestFetch m a).free = s.free := rfl
@[simp] theorem State.requestFetch_raised (m : MoverId) (a : Addr) :
    (s.requestFetch m a).raised = s.raised := rfl
@[simp] theorem State.requestFetch_pending (m : MoverId) (a : Addr) :
    (s.requestFetch m a).pending = s.pending := rfl
@[simp] theorem State.requestFetch_mover (m : MoverId) (a : Addr) (who : MoverId) : (s.requestFetch m a).mover who = s.mover who := by
  cases who <;> rfl

/-! ### withdrawFetch -/

@[simp] theorem State.withdrawFetch_ring (m : MoverId) : (s.withdrawFetch m).ring = s.ring := rfl
@[simp] theorem State.withdrawFetch_inbound (m : MoverId) : (s.withdrawFetch m).inbound = s.inbound := rfl
@[simp] theorem State.withdrawFetch_imq (m : MoverId) : (s.withdrawFetch m).imq = s.imq := rfl
@[simp] theorem State.withdrawFetch_windows (m : MoverId) : (s.withdrawFetch m).windows = s.windows := rfl
@[simp] theorem State.withdrawFetch_pool (m : MoverId) : (s.withdrawFetch m).pool = s.pool := rfl
@[simp] theorem State.withdrawFetch_requestQueue (m : MoverId) :
    (s.withdrawFetch m).requestQueue = s.requestQueue := rfl
@[simp] theorem State.withdrawFetch_replyQueue (m : MoverId) :
    (s.withdrawFetch m).replyQueue = s.replyQueue := rfl
@[simp] theorem State.withdrawFetch_fetcher (m : MoverId) :
    (s.withdrawFetch m).fetcher = s.fetcher.withdraw m := rfl
@[simp] theorem State.withdrawFetch_mover0 (m : MoverId) : (s.withdrawFetch m).mover0 = s.mover0 := rfl
@[simp] theorem State.withdrawFetch_mover1 (m : MoverId) : (s.withdrawFetch m).mover1 = s.mover1 := rfl
@[simp] theorem State.withdrawFetch_tags (m : MoverId) : (s.withdrawFetch m).tags = s.tags := rfl
@[simp] theorem State.withdrawFetch_port (m : MoverId) : (s.withdrawFetch m).port = s.port := rfl
@[simp] theorem State.withdrawFetch_mgmt (m : MoverId) : (s.withdrawFetch m).mgmt = s.mgmt := rfl
@[simp] theorem State.withdrawFetch_events (m : MoverId) : (s.withdrawFetch m).events = s.events := rfl
@[simp] theorem State.withdrawFetch_cardMem (m : MoverId) : (s.withdrawFetch m).cardMem = s.cardMem := rfl
@[simp] theorem State.withdrawFetch_now (m : MoverId) : (s.withdrawFetch m).now = s.now := rfl
@[simp] theorem State.withdrawFetch_free (m : MoverId) : (s.withdrawFetch m).free = s.free := rfl
@[simp] theorem State.withdrawFetch_raised (m : MoverId) : (s.withdrawFetch m).raised = s.raised := rfl
@[simp] theorem State.withdrawFetch_pending (m : MoverId) : (s.withdrawFetch m).pending = s.pending := rfl
@[simp] theorem State.withdrawFetch_mover (m : MoverId) (who : MoverId) : (s.withdrawFetch m).mover who = s.mover who := by
  cases who <;> rfl

/-! ### abandonTags -/

@[simp] theorem State.abandonTags_ring (m : MoverId) : (s.abandonTags m).ring = s.ring := rfl
@[simp] theorem State.abandonTags_inbound (m : MoverId) : (s.abandonTags m).inbound = s.inbound := rfl
@[simp] theorem State.abandonTags_imq (m : MoverId) : (s.abandonTags m).imq = s.imq := rfl
@[simp] theorem State.abandonTags_windows (m : MoverId) : (s.abandonTags m).windows = s.windows := rfl
@[simp] theorem State.abandonTags_pool (m : MoverId) : (s.abandonTags m).pool = s.pool := rfl
@[simp] theorem State.abandonTags_requestQueue (m : MoverId) :
    (s.abandonTags m).requestQueue = s.requestQueue := rfl
@[simp] theorem State.abandonTags_replyQueue (m : MoverId) :
    (s.abandonTags m).replyQueue = s.replyQueue := rfl
@[simp] theorem State.abandonTags_fetcher (m : MoverId) : (s.abandonTags m).fetcher = s.fetcher := rfl
@[simp] theorem State.abandonTags_mover0 (m : MoverId) : (s.abandonTags m).mover0 = s.mover0 := rfl
@[simp] theorem State.abandonTags_mover1 (m : MoverId) : (s.abandonTags m).mover1 = s.mover1 := rfl
@[simp] theorem State.abandonTags_tags (m : MoverId) :
    (s.abandonTags m).tags = s.tags.map (Tag.abandon m) := rfl
@[simp] theorem State.abandonTags_port (m : MoverId) : (s.abandonTags m).port = s.port := rfl
@[simp] theorem State.abandonTags_mgmt (m : MoverId) : (s.abandonTags m).mgmt = s.mgmt := rfl
@[simp] theorem State.abandonTags_events (m : MoverId) : (s.abandonTags m).events = s.events := rfl
@[simp] theorem State.abandonTags_cardMem (m : MoverId) : (s.abandonTags m).cardMem = s.cardMem := rfl
@[simp] theorem State.abandonTags_now (m : MoverId) : (s.abandonTags m).now = s.now := rfl
@[simp] theorem State.abandonTags_free (m : MoverId) : (s.abandonTags m).free = s.free := rfl
@[simp] theorem State.abandonTags_raised (m : MoverId) : (s.abandonTags m).raised = s.raised := rfl
@[simp] theorem State.abandonTags_pending (m : MoverId) : (s.abandonTags m).pending = s.pending := rfl
@[simp] theorem State.abandonTags_mover (m : MoverId) (who : MoverId) : (s.abandonTags m).mover who = s.mover who := by
  cases who <;> rfl

/-! ### endHandling -/

@[simp] theorem State.endHandling_ring : (s.endHandling).ring = s.ring := rfl
@[simp] theorem State.endHandling_inbound :
    (s.endHandling).inbound = { queue := s.inbound.queue.tail, hand := none } := rfl
@[simp] theorem State.endHandling_imq : (s.endHandling).imq = s.imq := rfl
@[simp] theorem State.endHandling_windows : (s.endHandling).windows = s.windows := rfl
@[simp] theorem State.endHandling_pool : (s.endHandling).pool = s.pool := rfl
@[simp] theorem State.endHandling_requestQueue : (s.endHandling).requestQueue = s.requestQueue := rfl
@[simp] theorem State.endHandling_replyQueue : (s.endHandling).replyQueue = s.replyQueue := rfl
@[simp] theorem State.endHandling_fetcher : (s.endHandling).fetcher = s.fetcher := rfl
@[simp] theorem State.endHandling_mover0 : (s.endHandling).mover0 = s.mover0 := rfl
@[simp] theorem State.endHandling_mover1 : (s.endHandling).mover1 = s.mover1 := rfl
@[simp] theorem State.endHandling_tags : (s.endHandling).tags = s.tags := rfl
@[simp] theorem State.endHandling_port : (s.endHandling).port = s.port := rfl
@[simp] theorem State.endHandling_mgmt : (s.endHandling).mgmt = s.mgmt := rfl
@[simp] theorem State.endHandling_events : (s.endHandling).events = s.events := rfl
@[simp] theorem State.endHandling_cardMem : (s.endHandling).cardMem = s.cardMem := rfl
@[simp] theorem State.endHandling_now : (s.endHandling).now = s.now := rfl
@[simp] theorem State.endHandling_free : (s.endHandling).free = s.free := rfl
@[simp] theorem State.endHandling_raised : (s.endHandling).raised = s.raised := rfl
@[simp] theorem State.endHandling_pending : (s.endHandling).pending = s.pending := rfl
@[simp] theorem State.endHandling_mover (who : MoverId) : (s.endHandling).mover who = s.mover who := by
  cases who <;> rfl

/-! ### wait -/

@[simp] theorem State.wait_ring (w : Wait) : (s.wait w).ring = s.ring := rfl
@[simp] theorem State.wait_inbound (w : Wait) :
    (s.wait w).inbound = { s.inbound with hand := some w } := rfl
@[simp] theorem State.wait_imq (w : Wait) : (s.wait w).imq = s.imq := rfl
@[simp] theorem State.wait_windows (w : Wait) : (s.wait w).windows = s.windows := rfl
@[simp] theorem State.wait_pool (w : Wait) : (s.wait w).pool = s.pool := rfl
@[simp] theorem State.wait_requestQueue (w : Wait) : (s.wait w).requestQueue = s.requestQueue := rfl
@[simp] theorem State.wait_replyQueue (w : Wait) : (s.wait w).replyQueue = s.replyQueue := rfl
@[simp] theorem State.wait_fetcher (w : Wait) : (s.wait w).fetcher = s.fetcher := rfl
@[simp] theorem State.wait_mover0 (w : Wait) : (s.wait w).mover0 = s.mover0 := rfl
@[simp] theorem State.wait_mover1 (w : Wait) : (s.wait w).mover1 = s.mover1 := rfl
@[simp] theorem State.wait_tags (w : Wait) : (s.wait w).tags = s.tags := rfl
@[simp] theorem State.wait_port (w : Wait) : (s.wait w).port = s.port := rfl
@[simp] theorem State.wait_mgmt (w : Wait) : (s.wait w).mgmt = s.mgmt := rfl
@[simp] theorem State.wait_events (w : Wait) : (s.wait w).events = s.events := rfl
@[simp] theorem State.wait_cardMem (w : Wait) : (s.wait w).cardMem = s.cardMem := rfl
@[simp] theorem State.wait_now (w : Wait) : (s.wait w).now = s.now := rfl
@[simp] theorem State.wait_free (w : Wait) : (s.wait w).free = s.free := rfl
@[simp] theorem State.wait_raised (w : Wait) : (s.wait w).raised = s.raised := rfl
@[simp] theorem State.wait_pending (w : Wait) : (s.wait w).pending = s.pending := rfl
@[simp] theorem State.wait_mover (w : Wait) (who : MoverId) : (s.wait w).mover who = s.mover who := by
  cases who <;> rfl

/-! ### reach -/

@[simp] theorem State.reach_ring (t : Time) : (s.reach t).ring = s.ring := rfl
@[simp] theorem State.reach_inbound (t : Time) : (s.reach t).inbound = s.inbound := rfl
@[simp] theorem State.reach_imq (t : Time) : (s.reach t).imq = s.imq := rfl
@[simp] theorem State.reach_windows (t : Time) : (s.reach t).windows = s.windows := rfl
@[simp] theorem State.reach_pool (t : Time) : (s.reach t).pool = s.pool := rfl
@[simp] theorem State.reach_requestQueue (t : Time) : (s.reach t).requestQueue = s.requestQueue := rfl
@[simp] theorem State.reach_replyQueue (t : Time) : (s.reach t).replyQueue = s.replyQueue := rfl
@[simp] theorem State.reach_fetcher (t : Time) : (s.reach t).fetcher = s.fetcher := rfl
@[simp] theorem State.reach_mover0 (t : Time) : (s.reach t).mover0 = s.mover0 := rfl
@[simp] theorem State.reach_mover1 (t : Time) : (s.reach t).mover1 = s.mover1 := rfl
@[simp] theorem State.reach_tags (t : Time) : (s.reach t).tags = s.tags := rfl
@[simp] theorem State.reach_port (t : Time) : (s.reach t).port = s.port := rfl
@[simp] theorem State.reach_mgmt (t : Time) : (s.reach t).mgmt = s.mgmt := rfl
@[simp] theorem State.reach_events (t : Time) : (s.reach t).events = s.events := rfl
@[simp] theorem State.reach_cardMem (t : Time) : (s.reach t).cardMem = s.cardMem := rfl
@[simp] theorem State.reach_now (t : Time) : (s.reach t).now = max s.now t := rfl
@[simp] theorem State.reach_free (t : Time) : (s.reach t).free = s.free := rfl
@[simp] theorem State.reach_raised (t : Time) : (s.reach t).raised = s.raised := rfl
@[simp] theorem State.reach_pending (t : Time) : (s.reach t).pending = s.pending := rfl
@[simp] theorem State.reach_mover (t : Time) (who : MoverId) : (s.reach t).mover who = s.mover who := by
  cases who <;> rfl

/-! ### attentionToIdle -/

@[simp] theorem State.attentionToIdle_ring : (s.attentionToIdle).ring = s.ring := rfl
@[simp] theorem State.attentionToIdle_inbound : (s.attentionToIdle).inbound = s.inbound := rfl
@[simp] theorem State.attentionToIdle_imq : (s.attentionToIdle).imq = s.imq := rfl
@[simp] theorem State.attentionToIdle_windows : (s.attentionToIdle).windows = s.windows := rfl
@[simp] theorem State.attentionToIdle_pool : (s.attentionToIdle).pool = s.pool := rfl
@[simp] theorem State.attentionToIdle_requestQueue :
    (s.attentionToIdle).requestQueue = s.requestQueue := rfl
@[simp] theorem State.attentionToIdle_replyQueue : (s.attentionToIdle).replyQueue = s.replyQueue := rfl
@[simp] theorem State.attentionToIdle_fetcher : (s.attentionToIdle).fetcher = s.fetcher := rfl
@[simp] theorem State.attentionToIdle_mover0 : (s.attentionToIdle).mover0 = s.mover0 := rfl
@[simp] theorem State.attentionToIdle_mover1 : (s.attentionToIdle).mover1 = s.mover1 := rfl
@[simp] theorem State.attentionToIdle_tags : (s.attentionToIdle).tags = s.tags := rfl
@[simp] theorem State.attentionToIdle_port : (s.attentionToIdle).port = s.port := rfl
@[simp] theorem State.attentionToIdle_mgmt : (s.attentionToIdle).mgmt = s.mgmt := rfl
@[simp] theorem State.attentionToIdle_events :
    (s.attentionToIdle).events = { s.events with state := .idle, timer := none, waiting := none } := rfl
@[simp] theorem State.attentionToIdle_cardMem : (s.attentionToIdle).cardMem = s.cardMem := rfl
@[simp] theorem State.attentionToIdle_now : (s.attentionToIdle).now = s.now := rfl
@[simp] theorem State.attentionToIdle_free : (s.attentionToIdle).free = s.free := rfl
@[simp] theorem State.attentionToIdle_raised : (s.attentionToIdle).raised = s.raised := rfl
@[simp] theorem State.attentionToIdle_pending : (s.attentionToIdle).pending = s.pending := rfl
@[simp] theorem State.attentionToIdle_mover (who : MoverId) : (s.attentionToIdle).mover who = s.mover who := by
  cases who <;> rfl

/-! ### begin -/

@[simp] theorem State.begin_ring (src : RingSource) (f : List Byte) (k : Nat) :
    (s.begin src f k).ring = { s.ring with
      passCounter := k, out := some { source := src, frame := f, beforeReset := false } } := rfl
@[simp] theorem State.begin_inbound (src : RingSource) (f : List Byte) (k : Nat) :
    (s.begin src f k).inbound = s.inbound := rfl
@[simp] theorem State.begin_imq (src : RingSource) (f : List Byte) (k : Nat) :
    (s.begin src f k).imq = s.imq := rfl
@[simp] theorem State.begin_windows (src : RingSource) (f : List Byte) (k : Nat) :
    (s.begin src f k).windows = s.windows := rfl
@[simp] theorem State.begin_pool (src : RingSource) (f : List Byte) (k : Nat) :
    (s.begin src f k).pool = s.pool := rfl
@[simp] theorem State.begin_requestQueue (src : RingSource) (f : List Byte) (k : Nat) :
    (s.begin src f k).requestQueue = s.requestQueue := rfl
@[simp] theorem State.begin_replyQueue (src : RingSource) (f : List Byte) (k : Nat) :
    (s.begin src f k).replyQueue = s.replyQueue := rfl
@[simp] theorem State.begin_fetcher (src : RingSource) (f : List Byte) (k : Nat) :
    (s.begin src f k).fetcher = s.fetcher := rfl
@[simp] theorem State.begin_mover0 (src : RingSource) (f : List Byte) (k : Nat) :
    (s.begin src f k).mover0 = s.mover0 := rfl
@[simp] theorem State.begin_mover1 (src : RingSource) (f : List Byte) (k : Nat) :
    (s.begin src f k).mover1 = s.mover1 := rfl
@[simp] theorem State.begin_tags (src : RingSource) (f : List Byte) (k : Nat) :
    (s.begin src f k).tags = s.tags := rfl
@[simp] theorem State.begin_port (src : RingSource) (f : List Byte) (k : Nat) :
    (s.begin src f k).port = s.port := rfl
@[simp] theorem State.begin_mgmt (src : RingSource) (f : List Byte) (k : Nat) :
    (s.begin src f k).mgmt = s.mgmt := rfl
@[simp] theorem State.begin_events (src : RingSource) (f : List Byte) (k : Nat) :
    (s.begin src f k).events = s.events := rfl
@[simp] theorem State.begin_cardMem (src : RingSource) (f : List Byte) (k : Nat) :
    (s.begin src f k).cardMem = s.cardMem := rfl
@[simp] theorem State.begin_now (src : RingSource) (f : List Byte) (k : Nat) :
    (s.begin src f k).now = s.now := rfl
@[simp] theorem State.begin_free (src : RingSource) (f : List Byte) (k : Nat) :
    (s.begin src f k).free = s.free := rfl
@[simp] theorem State.begin_raised (src : RingSource) (f : List Byte) (k : Nat) :
    (s.begin src f k).raised = s.raised := rfl
@[simp] theorem State.begin_pending (src : RingSource) (f : List Byte) (k : Nat) :
    (s.begin src f k).pending = s.pending := rfl
@[simp] theorem State.begin_mover (src : RingSource) (f : List Byte) (k : Nat) (who : MoverId) : (s.begin src f k).mover who = s.mover who := by
  cases who <;> rfl

/-! ### setMover -/

@[simp] theorem State.setMover_ring (m : MoverId) (v : Mover) : (s.setMover m v).ring = s.ring := by
  cases m <;> rfl
@[simp] theorem State.setMover_inbound (m : MoverId) (v : Mover) : (s.setMover m v).inbound = s.inbound := by
  cases m <;> rfl
@[simp] theorem State.setMover_imq (m : MoverId) (v : Mover) : (s.setMover m v).imq = s.imq := by
  cases m <;> rfl
@[simp] theorem State.setMover_windows (m : MoverId) (v : Mover) : (s.setMover m v).windows = s.windows := by
  cases m <;> rfl
@[simp] theorem State.setMover_pool (m : MoverId) (v : Mover) : (s.setMover m v).pool = s.pool := by
  cases m <;> rfl
@[simp] theorem State.setMover_requestQueue (m : MoverId) (v : Mover) : (s.setMover m v).requestQueue = s.requestQueue := by
  cases m <;> rfl
@[simp] theorem State.setMover_replyQueue (m : MoverId) (v : Mover) : (s.setMover m v).replyQueue = s.replyQueue := by
  cases m <;> rfl
@[simp] theorem State.setMover_fetcher (m : MoverId) (v : Mover) : (s.setMover m v).fetcher = s.fetcher := by
  cases m <;> rfl
@[simp] theorem State.setMover_tags (m : MoverId) (v : Mover) : (s.setMover m v).tags = s.tags := by
  cases m <;> rfl
@[simp] theorem State.setMover_port (m : MoverId) (v : Mover) : (s.setMover m v).port = s.port := by
  cases m <;> rfl
@[simp] theorem State.setMover_mgmt (m : MoverId) (v : Mover) : (s.setMover m v).mgmt = s.mgmt := by
  cases m <;> rfl
@[simp] theorem State.setMover_events (m : MoverId) (v : Mover) : (s.setMover m v).events = s.events := by
  cases m <;> rfl
@[simp] theorem State.setMover_cardMem (m : MoverId) (v : Mover) : (s.setMover m v).cardMem = s.cardMem := by
  cases m <;> rfl
@[simp] theorem State.setMover_now (m : MoverId) (v : Mover) : (s.setMover m v).now = s.now := by
  cases m <;> rfl
@[simp] theorem State.setMover_free (m : MoverId) (v : Mover) : (s.setMover m v).free = s.free := by
  cases m <;> rfl
@[simp] theorem State.setMover_raised (m : MoverId) (v : Mover) : (s.setMover m v).raised = s.raised := by
  cases m <;> rfl
@[simp] theorem State.setMover_pending (m : MoverId) (v : Mover) : (s.setMover m v).pending = s.pending := by
  cases m <;> rfl

@[simp] theorem State.mover_setMover_same (m : MoverId) (v : Mover) : (s.setMover m v).mover m = v := by
  cases m <;> rfl

theorem State.mover_setMover_other (m k : MoverId) (v : Mover) (h : k ≠ m) :
    (s.setMover m v).mover k = s.mover k := by
  cases m <;> cases k <;> first | rfl | exact absurd rfl h

@[simp] theorem State.setMover_setMover (m : MoverId) (v w : Mover) :
    (s.setMover m v).setMover m w = s.setMover m w := by
  cases m <;> rfl

@[simp] theorem State.setMover_self (m : MoverId) : s.setMover m (s.mover m) = s := by
  cases m <;> rfl

@[simp] theorem State.mover_m0 : s.mover .m0 = s.mover0 := rfl
@[simp] theorem State.mover_m1 : s.mover .m1 = s.mover1 := rfl

/-! ### Sets of alike things -/

@[simp] theorem State.getTag_setTag (t : TagNo) (v : Tag) : (s.setTag t v).tags[t] = v := by
  simp [State.setTag]

theorem State.getTag_setTag_other (t u : TagNo) (v : Tag) (h : u ≠ t) :
    (s.setTag t v).tags[u] = s.tags[u] := by
  have h' : t.val ≠ u.val := fun e => h (Fin.ext e.symm)
  simp [State.setTag, h']

@[simp] theorem State.getBuffer_setBuffer (b : BufNo) (v : Buffer) : (s.setBuffer b v).pool[b] = v := by
  simp [State.setBuffer]

theorem State.getBuffer_setBuffer_other (b c : BufNo) (v : Buffer) (h : c ≠ b) :
    (s.setBuffer b v).pool[c] = s.pool[c] := by
  have h' : b.val ≠ c.val := fun e => h (Fin.ext e.symm)
  simp [State.setBuffer, h']

@[simp] theorem State.getWindow_setWindow (w : WindowNo) (v : Window) :
    (s.setWindow w v).windows[w] = v := by
  simp [State.setWindow]

theorem State.getWindow_setWindow_other (w x : WindowNo) (v : Window) (h : x ≠ w) :
    (s.setWindow w v).windows[x] = s.windows[x] := by
  have h' : w.val ≠ x.val := fun e => h (Fin.ext e.symm)
  simp [State.setWindow, h']

end Sys2Proof.Machine
end

