-- ==== Sys2Proof/Laws/Movers.lean ====
section
/-! SUPPORT. What the movers' shared operations can change: one lemma for each, over two relations between
the states before and after. -/

namespace Sys2Proof.Machine

/-! ### The fields that a withdrawal leaves -/

/-- The fields of a mover that giving up cells, tags, buffers and fetches does not touch. -/
def Mover.core (v : Mover) : MoverState × Current × Option Nat × Nat × Nat × Option FaultRecord × Option Addr × Half :=
  (v.state, v.current, v.nextPiece, v.issued, v.settled, v.fault, v.resume, v.completed)

/-- From `s` to `t` cells, tags, buffers, fetches and counts of the movers may have changed, and the pass
counter, and nothing else. -/
structure GivesUp (s t : State) : Prop where
  frame : ∃ rq pool f v0 v1 tags n, t =
    { s with
      requestQueue := rq, pool := pool, fetcher := f, mover0 := v0, mover1 := v1, tags := tags
      ring := { s.ring with passCounter := n } }
  core : ∀ k, (t.mover k).core = (s.mover k).core

theorem GivesUp.refl (s : State) : GivesUp s s := ⟨⟨_, _, _, _, _, _, _, rfl⟩, fun _ => rfl⟩

theorem GivesUp.trans {s t u : State} (h : GivesUp s t) (g : GivesUp t u) : GivesUp s u := by
  obtain ⟨⟨_, _, _, _, _, _, _, rfl⟩, hc⟩ := h
  obtain ⟨⟨_, _, _, _, _, _, _, rfl⟩, gc⟩ := g
  exact ⟨⟨_, _, _, _, _, _, _, rfl⟩, fun k => (gc k).trans (hc k)⟩

/-- A mover's record changes in other fields than those of `core`. -/
theorem GivesUp.setMover (s : State) (m : MoverId) (v : Mover) (h : v.core = (s.mover m).core) :
    GivesUp s (s.setMover m v) := by
  refine ⟨?_, fun k => ?_⟩
  · cases m <;> exact ⟨_, _, _, _, _, _, _, rfl⟩
  · cases m <;> cases k <;> first | exact h | rfl

theorem GivesUp.setQueue (s : State) (m : MoverId) (q : List MemOp) :
    GivesUp s (s.setMover m { s.mover m with queue := q }) := GivesUp.setMover s m _ rfl

theorem GivesUp.setTag (s : State) (t : TagNo) (v : Tag) : GivesUp s (s.setTag t v) :=
  ⟨⟨_, _, _, _, _, _, _, rfl⟩, fun k => by cases k <;> rfl⟩

theorem GivesUp.setBuffer (s : State) (b : BufNo) (v : Buffer) : GivesUp s (s.setBuffer b v) :=
  ⟨⟨_, _, _, _, _, _, _, rfl⟩, fun k => by cases k <;> rfl⟩

theorem GivesUp.freeBuffer (s : State) (b : BufNo) : GivesUp s (s.freeBuffer b) := by
  unfold State.freeBuffer
  split
  · exact (GivesUp.setBuffer s b .free).trans (GivesUp.setMover _ _ _ (by simp [Mover.core]))
  · exact GivesUp.setBuffer s b .free

theorem GivesUp.stageBuffer (s : State) (b : BufNo) (st : BufStage) : GivesUp s (s.stageBuffer b st) := by
  unfold State.stageBuffer
  split
  · exact GivesUp.setBuffer s b _
  · exact GivesUp.refl s

theorem GivesUp.dropTag (s : State) (t : TagNo) (v : Tag) : GivesUp s (s.dropTag t v) := by
  unfold State.dropTag
  split
  · exact (GivesUp.setTag s t v).trans (GivesUp.setMover _ _ _ (by simp [Mover.core]))
  · exact GivesUp.setTag s t v

theorem GivesUp.freeTag (s : State) (t : TagNo) : GivesUp s (s.freeTag t) := GivesUp.dropTag s t .free

theorem GivesUp.freeUnsent (s : State) (t : TagNo) : GivesUp s (s.freeUnsent t) := by
  unfold State.freeUnsent
  split
  · exact GivesUp.freeTag s t
  · exact GivesUp.refl s

theorem GivesUp.dropPiece (s : State) (m : MoverId) : GivesUp s (s.dropPiece m) :=
  GivesUp.setMover s m _ rfl

theorem GivesUp.withdrawFetch (s : State) (m : MoverId) : GivesUp s (s.withdrawFetch m) :=
  ⟨⟨_, _, _, _, _, _, _, rfl⟩, fun k => by cases k <;> rfl⟩

theorem GivesUp.discardLookAhead (s : State) (m : MoverId) : GivesUp s (s.discardLookAhead m) := by
  have h : GivesUp s (s.setMover m { s.mover m with lookAhead := .none }) := GivesUp.setMover s m _ rfl
  unfold State.discardLookAhead
  simp only
  split
  · exact h.trans (GivesUp.withdrawFetch _ m)
  · exact h

theorem GivesUp.passCounterRule (s : State) : GivesUp s s.passCounterRule := by
  unfold State.passCounterRule
  split
  · exact ⟨⟨_, _, _, _, _, _, _, rfl⟩, fun k => by cases k <;> rfl⟩
  · exact GivesUp.refl s

theorem GivesUp.withdrawCell (s : State) (c : RequestCell) : GivesUp s (s.withdrawCell c) := by
  unfold State.withdrawCell
  cases c.buffer <;> cases tagOf c.header.tag
  · exact GivesUp.dropPiece s _
  · exact (GivesUp.freeUnsent s _).trans (GivesUp.dropPiece _ _)
  · exact (GivesUp.freeBuffer s _).trans (GivesUp.dropPiece _ _)
  · exact ((GivesUp.freeBuffer s _).trans (GivesUp.freeUnsent _ _)).trans (GivesUp.dropPiece _ _)

/-- A fold of operations that only give up only gives up. -/
theorem GivesUp.foldl {α : Type} (f : State → α → State) (h : ∀ s a, GivesUp s (f s a)) (l : List α)
    (s : State) : GivesUp s (l.foldl f s) := by
  induction l generalizing s with
  | nil => exact GivesUp.refl s
  | cons a l ih => exact (h s a).trans (ih (f s a))

theorem GivesUp.withdrawCells (s : State) (m : MoverId) : GivesUp s (s.withdrawCells m) := by
  have h : GivesUp s { s with requestQueue := s.requestQueue.filter (fun c => c.mover ≠ m) } :=
    ⟨⟨_, _, _, _, _, _, _, rfl⟩, fun k => by cases k <;> rfl⟩
  exact (h.trans (GivesUp.foldl _ GivesUp.withdrawCell _ _)).trans (GivesUp.passCounterRule _)

theorem GivesUp.giveUpFilled (s : State) (m : MoverId) : GivesUp s (s.giveUpFilled m) := by
  unfold State.giveUpFilled
  simp only
  split
  · split
    · exact ((GivesUp.setQueue s m _).trans (GivesUp.freeBuffer _ _)).trans (GivesUp.dropPiece _ m)
    · exact GivesUp.refl s
  · exact GivesUp.refl s

theorem GivesUp.withdrawMemory (s : State) (m : MoverId) : GivesUp s (s.withdrawMemory m) :=
  ((GivesUp.setQueue s m _).trans (GivesUp.foldl _ GivesUp.freeUnsent _ _)).trans
    (GivesUp.giveUpFilled _ m)

theorem GivesUp.abandonTags (s : State) (m : MoverId) : GivesUp s (s.abandonTags m) :=
  ⟨⟨_, _, _, _, _, _, _, rfl⟩, fun k => by cases k <;> rfl⟩

/-- The withdrawal of R38 only gives up: the mover's state, element and fault record are as before. -/
theorem GivesUp.withdraw (s : State) (m : MoverId) : GivesUp s (s.withdraw m) :=
  ((((GivesUp.withdrawCells s m).trans (GivesUp.withdrawMemory _ m)).trans
    (GivesUp.abandonTags _ m)).trans (GivesUp.discardLookAhead _ m)).trans (GivesUp.withdrawFetch _ m)

/-! ### The tags that a withdrawal leaves -/

/-- From `s` to `t` no tag has changed that was not WAITING. -/
def LeavesTags (s t : State) : Prop := ∀ n : TagNo, s.tags[n].isWaiting = false → t.tags[n] = s.tags[n]

theorem LeavesTags.of_eq {s t : State} (h : t.tags = s.tags) : LeavesTags s t := fun _ _ => by rw [h]

theorem LeavesTags.refl (s : State) : LeavesTags s s := fun _ _ => rfl

theorem LeavesTags.trans {s t u : State} (h : LeavesTags s t) (g : LeavesTags t u) : LeavesTags s u :=
  fun n hn => (g n (by rw [h n hn]; exact hn)).trans (h n hn)

theorem State.freeBuffer_tags (s : State) (b : BufNo) : (s.freeBuffer b).tags = s.tags := by
  unfold State.freeBuffer
  split
  · simp only [State.setMover_tags]; rfl
  · rfl

theorem State.dropPiece_tags (s : State) (m : MoverId) : (s.dropPiece m).tags = s.tags :=
  s.setMover_tags m _

/-- What a tag is after `dropTag`. -/
theorem State.dropTag_tags (s : State) (t : TagNo) (v : Tag) : (s.dropTag t v).tags = s.tags.set t v := by
  unfold State.dropTag
  split
  · simp only [State.setMover_tags]; rfl
  · rfl

theorem LeavesTags.freeUnsent (s : State) (t : TagNo) : LeavesTags s (s.freeUnsent t) := by
  unfold State.freeUnsent
  split
  · next i h =>
    intro n hn
    rw [State.freeTag, State.dropTag_tags]
    have hne : t ≠ n := by
      rintro rfl
      rw [h] at hn
      cases hn
    have : t.val ≠ n.val := fun e => hne (Fin.ext e)
    simp [this]
  · exact .refl s

theorem LeavesTags.foldl {α : Type} (f : State → α → State) (h : ∀ s a, LeavesTags s (f s a)) (l : List α)
    (s : State) : LeavesTags s (l.foldl f s) := by
  induction l generalizing s with
  | nil => exact .refl s
  | cons a l ih => exact (h s a).trans (ih (f s a))

theorem LeavesTags.withdrawCell (s : State) (c : RequestCell) : LeavesTags s (s.withdrawCell c) := by
  unfold State.withdrawCell
  cases c.buffer <;> cases tagOf c.header.tag
  · exact .of_eq (State.dropPiece_tags _ _)
  · exact (LeavesTags.freeUnsent s _).trans (.of_eq (State.dropPiece_tags _ _))
  · exact (LeavesTags.of_eq (s.freeBuffer_tags _)).trans (.of_eq (State.dropPiece_tags _ _))
  · exact ((LeavesTags.of_eq (s.freeBuffer_tags _)).trans (.freeUnsent _ _)).trans
      (.of_eq (State.dropPiece_tags _ _))

theorem State.giveUpFilled_tags (s : State) (m : MoverId) : (s.giveUpFilled m).tags = s.tags := by
  unfold State.giveUpFilled
  simp only
  split
  · split
    · rw [State.dropPiece_tags, State.freeBuffer_tags, State.setMover_tags]
    · rfl
  · rfl

theorem LeavesTags.abandonTags (s : State) (m : MoverId) : LeavesTags s (s.abandonTags m) := by
  intro n hn
  have h : (s.abandonTags m).tags[n] = Tag.abandon m s.tags[n] := by
    rw [State.abandonTags_tags]
    simp
  rw [h]
  cases ht : s.tags[n] with
  | waiting i d => rw [ht] at hn; cases hn
  | _ => rfl

theorem State.discardLookAhead_tags (s : State) (m : MoverId) : (s.discardLookAhead m).tags = s.tags := by
  unfold State.discardLookAhead
  simp only
  split
  · exact State.setMover_tags s m _
  · exact State.setMover_tags s m _

/-- The withdrawal of R38 leaves every tag that is not WAITING (R63). -/
theorem LeavesTags.withdraw (s : State) (m : MoverId) : LeavesTags s (s.withdraw m) := by
  have h1 : LeavesTags s (s.withdrawCells m) := by
    have h0 : ∀ u : State, LeavesTags u u.passCounterRule := fun u => by
      unfold State.passCounterRule
      split
      · exact .of_eq rfl
      · exact .refl u
    exact ((LeavesTags.of_eq (t := { s with requestQueue := s.requestQueue.filter (fun c => c.mover ≠ m) })
      rfl).trans (.foldl State.withdrawCell .withdrawCell _ _)).trans (h0 _)
  have h2 : ∀ u : State, LeavesTags u (u.withdrawMemory m) := fun u =>
    ((LeavesTags.of_eq (u.setMover_tags m _)).trans (.foldl _ .freeUnsent _ _)).trans
      (.of_eq (State.giveUpFilled_tags _ m))
  exact ((((h1.trans (h2 _)).trans (.abandonTags _ m)).trans
    (.of_eq (State.discardLookAhead_tags _ m))).trans (.of_eq rfl))

theorem State.haltMover_tags (s : State) (m : MoverId) : (s.haltMover m).tags = s.tags :=
  s.setMover_tags m _

theorem State.reportCompletion_tags (s : State) (d : DeferTarget) : (s.reportCompletion d).tags = s.tags := by
  unfold State.reportCompletion
  split
  · split <;> rfl
  · rfl

theorem State.checkQuiet_tags (s : State) (m : MoverId) : (s.checkQuiet m).tags = s.tags := by
  unfold State.checkQuiet
  split
  · split
    · exact s.haltMover_tags m
    · rw [State.reportCompletion_tags]; exact s.setMover_tags m _
    · rfl
  · rfl

/-- A fault leaves every tag that is not WAITING. -/
theorem LeavesTags.takeFault (s : State) (m : MoverId) (f : FaultRecord) : LeavesTags s (s.takeFault m f) := by
  unfold State.takeFault
  simp only
  have h : ∀ v, LeavesTags s ((State.withdraw (s.setMover m v) m).checkQuiet m) := fun v =>
    ((LeavesTags.of_eq (s.setMover_tags m v)).trans (.withdraw _ m)).trans (.of_eq (State.checkQuiet_tags _ m))
  split
  · exact h _
  · exact h _
  · exact .of_eq ((State.haltMover_tags _ m).trans (s.setMover_tags m _))
  · exact .of_eq (s.setMover_tags m _)
  · exact .of_eq (s.setMover_tags m _)
  all_goals exact .refl s

/-! ### Everything a mover's operation can change -/

/-- From `s` to `t` the movers, what they own, and the end of a deferred command may have changed, and
occurrences may have been raised, and nothing else. -/
structure MoverActs (s t : State) : Prop where
  frame : ∃ rq pool f v0 v1 tags n d st r ev, t =
    { s with
      requestQueue := rq, pool := pool, fetcher := f, mover0 := v0, mover1 := v1, tags := tags
      ring := { s.ring with passCounter := n }
      mgmt := { s.mgmt with deferred := d, stored := st, replyDeferred := r }
      raised := ev }
  raised : ∃ ev, t.raised = s.raised ++ ev

theorem MoverActs.of_givesUp {s t : State} (h : GivesUp s t) : MoverActs s t := by
  obtain ⟨⟨_, _, _, _, _, _, _, rfl⟩, -⟩ := h
  exact ⟨⟨_, _, _, _, _, _, _, _, _, _, _, rfl⟩, [], by simp⟩

theorem MoverActs.refl (s : State) : MoverActs s s := .of_givesUp (.refl s)

theorem MoverActs.trans {s t u : State} (h : MoverActs s t) (g : MoverActs t u) : MoverActs s u := by
  obtain ⟨⟨_, _, _, _, _, _, _, _, _, _, _, rfl⟩, ev, he⟩ := h
  obtain ⟨⟨_, _, _, _, _, _, _, _, _, _, _, rfl⟩, ew, hw⟩ := g
  refine ⟨⟨_, _, _, _, _, _, _, _, _, _, _, rfl⟩, ev ++ ew, ?_⟩
  simp only at he hw
  rw [← List.append_assoc, ← he]
  exact hw

theorem MoverActs.setMover (s : State) (m : MoverId) (v : Mover) : MoverActs s (s.setMover m v) := by
  cases m <;> exact ⟨⟨_, _, _, _, _, _, _, _, _, _, _, rfl⟩, [], by simp [State.setMover]⟩

theorem MoverActs.raise (s : State) (e : Event) : MoverActs s (s.raise e) :=
  ⟨⟨_, _, _, _, _, _, _, _, _, _, _, rfl⟩, [e], rfl⟩

theorem MoverActs.requestFetch (s : State) (m : MoverId) (a : Addr) : MoverActs s (s.requestFetch m a) :=
  ⟨⟨_, _, _, _, _, _, _, _, _, _, _, rfl⟩, [], by simp [State.requestFetch]⟩

theorem MoverActs.reportCompletion (s : State) (d : DeferTarget) : MoverActs s (s.reportCompletion d) := by
  unfold State.reportCompletion
  split
  · split
    · exact ⟨⟨_, _, _, _, _, _, _, _, _, _, _, rfl⟩, [], by simp⟩
    · exact .refl s
  · exact .refl s

theorem MoverActs.endList (s : State) (m : MoverId) (r : Option Addr) : MoverActs s (s.endList m r) :=
  (MoverActs.setMover s m _).trans (.raise _ _)

theorem MoverActs.haltMover (s : State) (m : MoverId) : MoverActs s (s.haltMover m) :=
  (MoverActs.setMover s m _).trans (.raise _ _)

theorem MoverActs.checkQuiet (s : State) (m : MoverId) : MoverActs s (s.checkQuiet m) := by
  unfold State.checkQuiet
  split
  · split
    · exact .haltMover s m
    · exact (MoverActs.setMover s m _).trans (.reportCompletion _ _)
    · exact .refl s
  · exact .refl s

theorem MoverActs.takeFault (s : State) (m : MoverId) (f : FaultRecord) : MoverActs s (s.takeFault m f) := by
  unfold State.takeFault
  simp only
  split
  · exact ((MoverActs.setMover s m _).trans (.of_givesUp (.withdraw _ m))).trans (.checkQuiet _ m)
  · exact ((MoverActs.setMover s m _).trans (.of_givesUp (.withdraw _ m))).trans (.checkQuiet _ m)
  · exact (MoverActs.setMover s m _).trans (.haltMover _ m)
  · exact .setMover s m _
  · exact .setMover s m _
  all_goals exact .refl s

theorem MoverActs.becomeCurrent (s : State) (m : MoverId) (e : Element) :
    MoverActs s (s.becomeCurrent m e) := by
  unfold State.becomeCurrent
  simp only
  split
  · split
    · exact (MoverActs.setMover s m _).trans (.requestFetch _ m _)
    · exact .setMover s m _
  · split
    · exact (MoverActs.setMover s m _).trans (.requestFetch _ m _)
    · exact .setMover s m _
  · exact (MoverActs.setMover s m _).trans (.raise _ _)

theorem MoverActs.chain (s : State) (m : MoverId) (a : Addr) : MoverActs s (s.chain m a) := by
  unfold State.chain
  simp only
  have h := MoverActs.setMover s m { s.mover m with lookAhead := .none }
  split
  · exact h.trans (.becomeCurrent _ m _)
  · exact h.trans (.setMover _ m _)
  · exact (h.trans (.setMover _ m _)).trans (.haltMover _ m)
  · exact (h.trans (.requestFetch _ m a)).trans (.setMover _ m _)

theorem MoverActs.countElement (s : State) (m : MoverId) (e : Element) :
    MoverActs s (s.countElement m e) := by
  unfold State.countElement
  simp only
  split
  · exact (MoverActs.setMover s m _).trans (.raise _ _)
  · exact .setMover s m _

theorem MoverActs.completeElement (s : State) (m : MoverId) (e : Element) :
    MoverActs s (s.completeElement m e) := by
  unfold State.completeElement
  simp only
  split
  · exact (MoverActs.countElement s m e).trans (.chain _ m _)
  · exact (MoverActs.countElement s m e).trans (.endList _ m _)

theorem MoverActs.completeStopped (s : State) (m : MoverId) (e : Element) :
    MoverActs s (s.completeStopped m e) := by
  unfold State.completeStopped
  simp only
  split
  · exact (MoverActs.countElement s m e).trans (.setMover _ m _)
  · exact (MoverActs.countElement s m e).trans (.endList _ m _)

theorem MoverActs.settlePiece (s : State) (m : MoverId) (n : Nat) : MoverActs s (s.settlePiece m n) := by
  have h := MoverActs.setMover s m
    { s.mover m with settled := (s.mover m).settled + n, piecesInFlight := (s.mover m).piecesInFlight - 1 }
  unfold State.settlePiece
  simp only
  split
  · split
    · split
      · split
        · exact h.trans (.completeElement _ m _)
        · exact h.trans (.completeStopped _ m _)
        · exact h
      · exact h
    · exact h
  · exact h

theorem MoverActs.fetchDropped (s : State) (m : MoverId) : MoverActs s (s.fetchDropped m) := by
  unfold State.fetchDropped
  simp only
  split
  · exact .endList s m _
  · split
    · split
      · exact .endList s m _
      · exact .refl s
    · exact .refl s
  · exact .checkQuiet s m
  · exact .checkQuiet s m
  · exact .refl s

/-! ### A fault in a mover that finishes pieces (R36, R37) -/

/-- The test for quiet leaves a draining mover's fault record, and a FAULTING mover FAULTING or HALTED. -/
theorem State.checkQuiet_faulting (s : State) (m : MoverId) (h : (s.mover m).state = .faulting) :
    ((s.checkQuiet m).mover m).fault = (s.mover m).fault
      ∧ (((s.checkQuiet m).mover m).state = .faulting ∨ ((s.checkQuiet m).mover m).state = .halted) := by
  unfold State.checkQuiet
  split
  · rw [h]
    simp only [State.haltMover]
    cases m <;> exact ⟨rfl, .inr rfl⟩
  · exact ⟨rfl, .inl h⟩

/-- A fault taken while the mover finishes pieces is in its record, and the mover drains or has halted. -/
theorem State.takeFault_carrying (s : State) (m : MoverId) (f : FaultRecord)
    (h : (s.mover m).state = .moving ∨ (s.mover m).state = .stopping .element)
    (hf : (s.mover m).fault = none) :
    ((s.takeFault m f).mover m).fault = some { f with further := 0 }
      ∧ (((s.takeFault m f).mover m).state = .faulting ∨ ((s.takeFault m f).mover m).state = .halted) := by
  have key : ∀ v : Mover, v.state = .faulting → v.fault = some { f with further := 0 } →
      ((((s.setMover m v).withdraw m).checkQuiet m).mover m).fault = some { f with further := 0 }
        ∧ (((((s.setMover m v).withdraw m).checkQuiet m).mover m).state = .faulting
          ∨ ((((s.setMover m v).withdraw m).checkQuiet m).mover m).state = .halted) := by
    intro v hv hvf
    have hc := (GivesUp.withdraw (s.setMover m v) m).core m
    rw [State.mover_setMover_same] at hc
    simp only [Mover.core, Prod.mk.injEq] at hc
    obtain ⟨h1, -, -, -, -, h2, -, -⟩ := hc
    have := State.checkQuiet_faulting _ m (h1.trans hv)
    rw [h2, hvf] at this
    exact this
  unfold State.takeFault
  rcases h with h | h <;>
  · simp only [h]
    exact key _ rfl (by simp [Mover.noteFault, hf])

end Sys2Proof.Machine
end

