-- ==== Sys2Proof/Laws/Counts.lean ====
section
/-! SUPPORT. The counts of buffers and tags that a mover holds, after each operation that changes a buffer or
a tag. -/

namespace Sys2Proof.Machine

/-- Counting over a vector after one entry is set. -/
theorem countP_vector_set {α : Type} {n : Nat} (v : Vector α n) (i : Fin n) (x : α) (p : α → Bool) :
    (v.set i x).toList.countP p + (if p v[i] then 1 else 0)
      = v.toList.countP p + (if p x then 1 else 0) := by
  rcases v with ⟨a, rfl⟩
  rcases a with ⟨l⟩
  have hi : i.val < l.length := i.isLt
  have h := List.countP_set (p := p) (l := l) (i := i.val) (a := x) hi
  have hpos : (if p l[i.val] then 1 else 0) ≤ l.countP p := by
    split
    · next hp => exact List.countP_pos_iff.mpr ⟨_, List.getElem_mem hi, hp⟩
    · omega
  change (l.set i.val x).countP p + (if p l[i.val] then 1 else 0)
    = l.countP p + (if p x then 1 else 0)
  rw [h]
  omega

/-- Buffers of a mover after one buffer changes. -/
theorem State.buffersOf_setBuffer (s : State) (b : BufNo) (v : Buffer) (m : MoverId) :
    (s.setBuffer b v).buffersOf m + (if s.pool[b].holdingMover = some m then 1 else 0)
      = s.buffersOf m + (if v.holdingMover = some m then 1 else 0) := by
  have := countP_vector_set s.pool b v (fun b => b.holdingMover = some m)
  simpa [State.buffersOf, State.setBuffer] using this

/-- Tags of a mover after one tag changes. -/
theorem State.tagsOwned_setTag (s : State) (t : TagNo) (v : Tag) (m : MoverId) :
    (s.setTag t v).tagsOwned m + (if s.tags[t].owner = some m then 1 else 0)
      = s.tagsOwned m + (if v.owner = some m then 1 else 0) := by
  have := countP_vector_set s.tags t v (fun t => t.owner = some m)
  simpa [State.tagsOwned, State.setTag] using this

/-- Going to ABANDONED changes no owner (R63). -/
theorem State.tagsOwned_abandonTags (s : State) (m k : MoverId) :
    (s.abandonTags m).tagsOwned k = s.tagsOwned k := by
  unfold State.tagsOwned State.abandonTags
  simp only [Vector.toList_map, List.countP_map]
  congr 1
  funext t
  cases t with
  | waiting i d => simp only [Function.comp, Tag.abandon]; split <;> rfl
  | _ => rfl

end Sys2Proof.Machine
end

