-- ==== Sys2Proof/Laws/Events.lean ====
section
/-! SUPPORT. The Event Unit's operations and the end of a step: each changes the Event Unit alone. -/

namespace Sys2Proof.Machine

/-! ### The attention condition -/

/-- Testing the condition changes nothing, or raises attention to the manager. -/
theorem State.testAttention_cases (s : State) :
    s.testAttention = s ∨
      ∃ m, s.mgmt.claim.manager = some m ∧ s.attentionCondition = true
        ∧ s.testAttention = s.raiseAttention m := by
  unfold State.testAttention
  split
  · next m h =>
    split
    · next hc => exact .inr ⟨m, h, hc, rfl⟩
    · exact .inl rfl
  · exact .inl rfl

/-- Testing the condition changes the Event Unit alone. -/
theorem State.testAttention_frame (s : State) :
    s.testAttention = { s with events := s.testAttention.events } := by
  rcases s.testAttention_cases with h | ⟨m, -, -, h⟩
  · rw [h]
  · rw [h]; rfl

/-- The records are not changed by a test. -/
theorem State.testAttention_records (s : State) :
    s.testAttention.events.records = s.events.records := by
  rcases s.testAttention_cases with h | ⟨m, -, -, h⟩
  · rw [h]
  · rw [h]; rfl

/-- After a test the condition does not hold (R190). -/
theorem State.testAttention_settles (s : State) : s.testAttention.attentionCondition = false := by
  unfold State.testAttention
  split
  · next m h =>
    split
    · simp [State.raiseAttention, State.attentionCondition]
    · next hc => simpa using hc
  · next h => simp [State.attentionCondition, h]

/-! ### Occurrences -/

/-- Taking an occurrence changes the Event Unit alone (R185). -/
theorem State.takeOccurrence_frame (s : State) (e : Event) :
    ∃ u, s.takeOccurrence e = { s with events := u } := by
  unfold State.takeOccurrence
  exact ⟨_, State.testAttention_frame _⟩

/-- The records after an occurrence (R185). -/
theorem State.takeOccurrence_records (s : State) (e : Event) :
    (s.takeOccurrence e).events.records =
      s.events.records.set e.number s.events.records[e.number].bump := by
  simp only [State.takeOccurrence, State.testAttention_records]

theorem State.takeOccurrence_settles (s : State) (e : Event) :
    (s.takeOccurrence e).attentionCondition = false := by
  simp only [State.takeOccurrence, State.testAttention_settles]

/-- A fold of occurrences changes the Event Unit alone. -/
theorem State.foldOccurrences_frame (es : List Event) (s : State) :
    ∃ u, es.foldl State.takeOccurrence s = { s with events := u } := by
  induction es generalizing s with
  | nil => exact ⟨s.events, rfl⟩
  | cons e es ih =>
    obtain ⟨u, hu⟩ := s.takeOccurrence_frame e
    obtain ⟨w, hw⟩ := ih { s with events := u }
    exact ⟨w, by rw [List.foldl_cons, hu, hw]⟩

/-- A fold of occurrences leaves the record of every other event. -/
theorem State.foldOccurrences_other (n : Fin 16) (es : List Event) (h : ∀ e ∈ es, e.number ≠ n) (s : State) :
    (es.foldl State.takeOccurrence s).events.records[n] = s.events.records[n] := by
  induction es generalizing s with
  | nil => rfl
  | cons e es ih =>
    rw [List.foldl_cons, ih (fun a ha => h a (List.mem_cons_of_mem _ ha)), State.takeOccurrence_records]
    have : e.number.val ≠ n.val := fun hn => h e (List.mem_cons_self ..) (Fin.ext hn)
    simp [this]

/-- Two occurrences change the Event Unit alone, in either order. -/
theorem State.takeTwo_frame (s : State) (swap : Bool) (a b : Event) :
    ∃ u, s.takeTwo swap a b = { s with events := u } := by
  cases swap
  · exact State.foldOccurrences_frame [a, b] s
  · exact State.foldOccurrences_frame [b, a] s

/-- What the Event Unit's taking of a step's occurrences may change. -/
theorem State.takeRaised_frame (s : State) :
    ∃ u k, s.takeRaised = { s with events := u, free := k, raised := [] } := by
  unfold State.takeRaised
  split
  · next h => exact ⟨s.events, s.free, by rw [← h]⟩
  · next a h =>
    obtain ⟨u, hu⟩ := State.takeOccurrence_frame { s with raised := [] } a
    exact ⟨u, s.free, hu⟩
  · next a b rest h =>
    simp only
    split
    · obtain ⟨u, hu⟩ := State.takeTwo_frame { s with raised := [] } false a b
      obtain ⟨w, hw⟩ := State.foldOccurrences_frame rest { s with raised := [], events := u }
      exact ⟨w, s.free, by rw [hu, hw]⟩
    · obtain ⟨u, hu⟩ := State.takeTwo_frame { s with raised := [], free := s.free + 1 }
        (Config.secondFirst s.free) a b
      obtain ⟨w, hw⟩ :=
        State.foldOccurrences_frame rest { s with raised := [], free := s.free + 1, events := u }
      exact ⟨w, s.free + 1, by rw [hu, hw]⟩

/-! ### The start of a fetch -/

theorem Fetcher.start_idle (f : Fetcher)
    (h : f.inFlight = none → f.waiting0 = none ∧ f.waiting1 = none) : f.start = f := by
  unfold Fetcher.start
  cases hf : f.inFlight with
  | some x => rfl
  | none => simp [Fetcher.nextMover, (h hf).1, (h hf).2]

/-- After the start of a fetch none is left that could start (R12). -/
theorem Fetcher.start_leaves_none (f : Fetcher) (h : f.start.inFlight = none) :
    f.start.waiting0 = none ∧ f.start.waiting1 = none := by
  unfold Fetcher.start at h ⊢
  cases hf : f.inFlight with
  | some x => simp [hf] at h
  | none =>
    cases h0 : f.waiting0 <;> cases h1 : f.waiting1 <;> cases hl : f.lastServed <;>
      simp_all [Fetcher.nextMover, Fetcher.waiting, Fetcher.setWaiting]

/-! ### The end of a step -/

/-- What the end of a step may change: the fetcher, the Event Unit, the index of the free values and the
occurrences on their way. -/
theorem State.finish_frame (s : State) :
    ∃ u k, s.finish =
      { s with fetcher := s.fetcher.start, events := u, free := k, raised := [] } :=
  State.takeRaised_frame { s with fetcher := s.fetcher.start }

/-- With no occurrence on its way nothing is taken. -/
theorem State.takeRaised_nil (s : State) (h : s.raised = []) : s.takeRaised = s := by
  unfold State.takeRaised
  split
  · rfl
  · next h1 => simp [h] at h1
  · next h1 => simp [h] at h1

/-- One occurrence on its way is taken. -/
theorem State.takeRaised_one (s : State) (e : Event) (h : s.raised = [e]) :
    s.takeRaised = State.takeOccurrence { s with raised := [] } e := by
  unfold State.takeRaised
  split
  · next h1 => simp [h] at h1
  · next a h1 =>
    have h2 : e = a := by simpa [h] using h1
    rw [h2]
  · next h1 => simp [h] at h1

/-- With nothing left over, the end of a step changes nothing. -/
theorem State.finish_between (s : State) (h : s.between) : s.finish = s := by
  unfold State.finish
  rw [Fetcher.start_idle _ h.2]
  exact s.takeRaised_nil h.1

/-- A step that ends with one occurrence takes it. -/
theorem State.finish_one (s : State) (e : Event) (h : s.raised = [e])
    (hf : s.fetcher.inFlight = none → s.fetcher.waiting0 = none ∧ s.fetcher.waiting1 = none) :
    s.finish = State.takeOccurrence { s with raised := [] } e := by
  unfold State.finish
  rw [Fetcher.start_idle _ hf]
  exact s.takeRaised_one e h

/-- Between steps nothing is left over: every step that ends with `finish` leaves it so. -/
theorem State.finish_leaves_between (s : State) : s.finish.between := by
  obtain ⟨u, k, h⟩ := s.finish_frame
  rw [h]
  exact ⟨rfl, s.fetcher.start_leaves_none⟩

end Sys2Proof.Machine
end

