-- ==== Sys2Proof/Laws/Grants.lean ====
section
/-! SUPPORT. Who is granted what: the buffer that the pool gives, the tag that the Tag Table gives, the fetch
that starts next, and the requester that the arbiter takes, each in the words of its rule. -/

namespace Sys2Proof.Machine

/-! ### Staging buffers -/

/-- The model's test for a free buffer is the rule's (R108, R119). -/
theorem State.grantable_iff (s : State) (b : BufNo) : s.grantable b = true ↔ s.bufferFree b := by
  unfold State.grantable State.passedOver State.bufferFree
  cases s.ring.out with
  | none => simp
  | some o => simp [Classical.or_iff_not_imp_left]

/-- The first index that a test picks is the lowest one. -/
theorem find?_finRange {n : Nat} (p : Fin n → Bool) (t : Fin n) :
    (List.finRange n).find? p = some t ↔ p t = true ∧ ∀ j, j < t → p j = false := by
  rw [List.find?_eq_some_iff_getElem]
  constructor
  · rintro ⟨hp, i, hi, rfl, hlt⟩
    exact ⟨hp, fun j hj => by simpa using hlt j.val (by simpa [Fin.lt_def] using hj)⟩
  · rintro ⟨hp, hlt⟩
    exact ⟨hp, t.val, by simp, by simp, fun j hj => by
      simpa using hlt ⟨j, Nat.lt_trans hj t.isLt⟩ hj⟩

/-- The buffer that a mover is given (R108). -/
theorem State.moverBuffer_eq_some (s : State) (b : BufNo) :
    s.moverBuffer = some b ↔ s.moverTakes b := by
  have h : s.moverBuffer = (List.finRange 8).find? (fun i => s.grantable i && decide (i.val ≤ 5)) := by
    rw [show List.finRange 8 = [0, 1, 2, 3, 4, 5] ++ [6, 7] from rfl, List.find?_append]
    simp [State.moverBuffer, List.find?_cons]
  rw [h, find?_finRange]
  simp only [Bool.and_eq_true, decide_eq_true_eq, State.grantable_iff, ← Bool.not_eq_true]
  exact ⟨fun ⟨⟨a, c⟩, d⟩ => ⟨a, c, fun j hj hf => d j hj ⟨hf, by have := Fin.lt_def.mp hj; omega⟩⟩,
    fun ⟨a, c, d⟩ => ⟨⟨a, c⟩, fun j hj hf => d j hj hf.1⟩⟩

/-- A mover waits for a buffer exactly when none of 0–5 is free (R108). -/
theorem State.moverBuffer_eq_none (s : State) :
    s.moverBuffer = none ↔ ∀ b : BufNo, b.val ≤ 5 → ¬s.bufferFree b := by
  simp only [State.moverBuffer, List.find?_eq_none, State.grantable_iff]
  exact ⟨fun h b hb => h b (by revert b; decide), fun h b hb => h b (by revert b; decide)⟩

/-- The buffer that the Responder is given: 6, else 7, else what a mover would be given (R97). -/
theorem State.responderBuffer_eq (s : State) :
    s.responderBuffer =
      if s.grantable 6 then some 6 else if s.grantable 7 then some 7 else s.moverBuffer := by
  unfold State.responderBuffer State.moverBuffer
  rw [List.find?_cons, List.find?_cons]
  cases s.grantable 6 <;> cases s.grantable 7 <;> rfl

/-- The buffer that the Responder is given (R97). -/
theorem State.responderBuffer_eq_some (s : State) (b : BufNo) :
    s.responderBuffer = some b ↔ s.responderTakes b := by
  rw [State.responderBuffer_eq]
  unfold State.responderTakes
  simp only [State.grantable_iff]
  split
  · next h => exact ⟨fun e => Option.some.inj e ▸ ⟨h, .inl rfl⟩, fun ⟨_, e⟩ => by simp_all⟩
  · next h =>
    split
    · next h7 => exact ⟨fun e => Option.some.inj e ▸ ⟨h7, .inr ⟨h, .inl rfl⟩⟩, fun ⟨a, e⟩ => by
        rcases e with rfl | ⟨-, rfl | ⟨e, -⟩⟩ <;> first | rfl | contradiction⟩
    · next h7 =>
      rw [State.moverBuffer_eq_some]
      refine ⟨fun ⟨a, c, d⟩ => ⟨a, .inr ⟨h, .inr ⟨h7, d⟩⟩⟩, fun ⟨a, e⟩ => ⟨a, ?_, ?_⟩⟩
      · by_contra hb
        have last : ∀ i : BufNo, ¬i.val ≤ 5 → i = 6 ∨ i = 7 := by decide
        rcases last b hb with rfl | rfl <;> contradiction
      · rcases e with rfl | ⟨-, rfl | ⟨-, d⟩⟩
        · contradiction
        · contradiction
        · exact d

/-- The Responder waits exactly when no buffer is free (R97). -/
theorem State.responderBuffer_eq_none (s : State) :
    s.responderBuffer = none ↔ ∀ b, ¬s.bufferFree b := by
  simp only [State.responderBuffer, List.find?_eq_none, State.grantable_iff]
  exact ⟨fun h b => h b (by revert b; decide), fun h b _ => h b⟩

/-! ### Tags -/

/-- The tag that a mover is given (R49). -/
theorem State.grantTag_eq_some (s : State) (m : MoverId) (t : TagNo) :
    s.grantTag m = some t ↔ s.tagTaken m t := by
  unfold State.grantTag State.tagTaken
  split
  · next h =>
    simp only [h, true_and]
    rw [find?_finRange]
    simp
  · next h => simp [h]

/-- A mover waits for a tag exactly when it is at its limit or none is FREE (R49). -/
theorem State.grantTag_eq_none (s : State) (m : MoverId) : s.grantTag m = none ↔ s.tagLacking m := by
  unfold State.grantTag State.tagLacking
  split
  · next h => simp [Nat.not_le.mpr h]
  · next h => simp [Nat.not_lt.mp h]

/-! ### Fetches and the card memory port -/

/-- The start of a fetch is what R12 says. -/
theorem Fetcher.start_startsAs (f : Fetcher) : f.startsAs f.start := by
  obtain ⟨i, w0, w1, l⟩ := f
  cases i <;> cases w0 <;> cases w1 <;> cases l <;>
    simp [Fetcher.startsAs, Fetcher.start, Fetcher.nextMover, Fetcher.waiting, Fetcher.setWaiting]

/-- Between steps a request starts at once, or waits behind the fetch in flight (R11, R12). -/
theorem Fetcher.start_setWaiting (f : Fetcher) (m : MoverId) (a : Addr)
    (h : f.inFlight = none → f.waiting0 = none ∧ f.waiting1 = none) :
    (f.setWaiting m (some a)).start = f.requested m a := by
  obtain ⟨i, w0, w1, l⟩ := f
  cases i with
  | some x => cases m <;> rfl
  | none =>
    obtain ⟨rfl, rfl⟩ := h rfl
    cases m <;> rfl

/-- The requester that the arbiter takes is the first presenting one after the one last served (R123). -/
theorem State.nextGrant_eq_some (s : State) (r : Requester) :
    s.nextGrant = some r ↔ s.presented r ≠ none ∧ ∀ q : Requester, s.presented q ≠ none →
      r.behind s.port.lastServed ≤ q.behind s.port.lastServed := by
  have all : ∀ P : Requester → Prop, (∀ q, P q) ↔
      P .inbound ∧ P .fetch ∧ P (.mover .m0) ∧ P (.mover .m1) := fun P =>
    ⟨fun h => ⟨h _, h _, h _, h _⟩, fun ⟨a, b, c, d⟩ q => by
      rcases q with _ | _ | _ | _ <;> assumption⟩
  rw [all]
  unfold State.nextGrant
  generalize s.port.lastServed = l
  simp only [← Option.isSome_iff_ne_none]
  rcases l with _ | _ | _ | _ <;> rcases r with _ | _ | _ | _ <;>
    (simp only [Requester.cycleAfter, List.find?_cons, List.find?_nil]
     generalize (s.presented .inbound).isSome = a
     generalize (s.presented .fetch).isSome = b
     generalize (s.presented (.mover .m0)).isSome = c
     generalize (s.presented (.mover .m1)).isSome = d
     revert a b c d
     decide)

end Sys2Proof.Machine
end

