-- ==== Sys2Proof/Laws/Drain.lean ====
section
/-! SUPPORT. The ends of the shared mover operations in the words of their rules: the completion of an element,
the release of something that a draining mover owned, the end and the failure of a fetch. -/

namespace Sys2Proof.Machine

/-! ### The end of a step with its occurrences -/

/-- The state at the end of a step, before its occurrences are taken. -/
abbrev State.atEnd (s : State) : State := { s with raised := [], fetcher := s.fetcher.start }

/-- A step that ends with at most two occurrences, the first of no mover, answers with them taken. -/
theorem State.finish_answers (s : State) (a b : Option Event) (h : s.raised = a.toList ++ b.toList)
    (ha : ∀ e ∈ a, e.mover? = none) :
    State.answers s.atEnd a b (.next s.finish) := by
  unfold State.answers State.finish State.takeRaised
  refine ⟨Config.secondFirst s.free, congrArg _ ?_⟩
  cases a with
  | none => cases b <;> simp_all [State.takes]
  | some x =>
    cases b with
    | none => simp_all [State.takes]
    | some y =>
      have hx : x.sameMover y = false := by simp [Event.sameMover, ha x rfl]
      simp_all [State.takes]

/-! ### Quiet (R39) -/

/-- The mover owns no fetch (R11). -/
theorem Fetcher.owns_eq_false (f : Fetcher) (m : MoverId) :
    f.owns m = false ↔ f.waiting m = none ∧ ∀ x ∈ f.inFlight, x.mover ≠ m := by
  unfold Fetcher.owns
  cases f.inFlight <;> simp

/-- The start of a fetch changes no ownership (R12). -/
theorem Fetcher.owns_start (f : Fetcher) (m : MoverId) : f.start.owns m = f.owns m := by
  obtain ⟨i, w0, w1, l⟩ := f
  cases i <;> cases w0 <;> cases w1 <;> cases l <;> cases m <;> rfl

/-- The model's test for quiet is the five conditions of R39. -/
theorem State.quiet_iff (s : State) (m : MoverId) : s.quiet m = true ↔ s.isQuiet m := by
  have ht : s.tagsOwned m = 0 ↔ ∀ t : TagNo, s.tags[t].owner ≠ some m := by
    unfold State.tagsOwned
    rw [List.countP_eq_zero]
    simp only [Vector.mem_toList_iff, Vector.mem_iff_getElem, decide_eq_true_eq]
    exact ⟨fun h t => h _ ⟨t.val, t.isLt, rfl⟩, fun h _ ⟨i, hi, e⟩ => e ▸ h ⟨i, hi⟩⟩
  have hb : s.holdsBuffer m = false ↔ ∀ b : BufNo, s.pool[b].holdingMover ≠ some m := by
    unfold State.holdsBuffer
    rw [List.any_eq_false]
    simp only [Vector.mem_toList_iff, Vector.mem_iff_getElem]
    have key : ∀ b : Buffer, (¬(match b with
        | .held (.mover n) _ => decide (n = m)
        | _ => false) = true) ↔ b.holdingMover ≠ some m := by
      rintro (_ | ⟨_ | _, _⟩) <;> simp [Buffer.holdingMover]
    exact ⟨fun h b => (key _).mp (h _ ⟨b.val, b.isLt, rfl⟩),
      fun h _ ⟨i, hi, e⟩ => (key _).mpr (e ▸ h ⟨i, hi⟩)⟩
  unfold State.quiet State.isQuiet
  rw [← ht, ← hb, ← Fetcher.owns_eq_false]
  simp [and_assoc]

/-- Quiet is unchanged by the end of a step. -/
theorem State.quiet_atEnd (s : State) (m : MoverId) : s.atEnd.quiet m = s.quiet m := by
  unfold State.quiet
  rw [show s.atEnd.fetcher.owns m = s.fetcher.owns m from s.fetcher.owns_start m]
  rfl

/-- What the test for quiet comes to at the end of a step, with at most one occurrence before it. -/
theorem State.checkQuiet_released (s : State) (m : MoverId) (e : Option Event) (h : s.raised = e.toList)
    (he : ∀ a ∈ e, a.mover? = none) :
    s.atEnd.released m e (.next (s.checkQuiet m).finish) := by
  have hm : s.atEnd.mover m = s.mover m := by cases m <;> rfl
  unfold State.released
  simp only [← State.quiet_iff, State.quiet_atEnd, hm]
  refine ⟨fun hs hq => ?_, fun g hs hq hd hg => ?_, fun hq => ?_⟩
  · have := (s.haltMover m).finish_answers e (some (.moverHalted m)) (by simp [State.haltMover, State.raise, h]) he
    simp only [State.checkQuiet, hq, hs, if_true]
    cases m <;> exact this
  · have := State.finish_answers ((s.setMover m ((s.mover m).rest .idle none)).reportCompletion (.moverAbort m)) e none
      (by cases m <;> simp_all [State.reportCompletion, State.setMover]) he
    simp only [State.checkQuiet, hq, hs, if_true]
    convert this using 1
    cases m <;> simp_all [State.reportCompletion, State.setMover, Mover.rest, replyPayload, DeferTarget.code, Command.code, Status.code]
  · simp only [State.checkQuiet, if_neg hq]
    exact s.finish_answers e none (by simp [h]) he

/-! ### The completion of an element (R15–R17, R23, R30, R33) -/

/-- A step with one occurrence takes it. -/
theorem State.finish_raisedOne (s : State) (a : Event) (h : s.raised = [a]) :
    s.finish = s.atEnd.takeOccurrence a := by
  unfold State.finish State.takeRaised
  simp [h]

/-- A step without an occurrence ends in the state it has come to. -/
theorem State.finish_raisedNone (s : State) (h : s.raised = []) : s.finish = s.atEnd := by
  unfold State.finish State.takeRaised
  simp [h]

/-- A step with two occurrences of one mover takes them in their order (R30). -/
theorem State.finish_raisedTwo (s : State) (a b : Event) (h : s.raised = [a, b]) (hs : a.sameMover b = true) :
    s.finish = (s.atEnd.takeOccurrence a).takeOccurrence b := by
  unfold State.finish State.takeRaised
  simp [h, hs, State.takeTwo]

/-- The end of a list by a completion. -/
theorem State.endList_finish (t u : State) (m : MoverId) (e : Element) (r : Option Addr)
    (hu : u = (t.countElement m e).endList m r) (hb : t.between) :
    u.finish = State.takeOccurrence
      ((fun u : State => if e.notify then u.takeOccurrence (.moverNotify m) else u) (t.setMover m
        { t.mover m with
          state := .idle, current := .absent, nextPiece := none, issued := 0, settled := 0
          completed := (t.mover m).completed + 1, resume := r })) (.moverDone m) := by
  subst hu
  have hf := t.fetcher.start_idle hb.2
  cases hn : e.notify
  · rw [State.finish_raisedOne _ (.moverDone m) (by cases m <;> simp [State.endList, State.countElement, hn, hb.1,
      State.raise, State.setMover])]
    cases m <;> simp [State.atEnd, State.endList, State.countElement, hn, hf, State.raise, State.setMover,
        State.mover, Mover.rest, hb.1]
  · rw [State.finish_raisedTwo _ (.moverNotify m) (.moverDone m) (by cases m <;> simp [State.endList,
      State.countElement, hn, hb.1, State.raise, State.setMover]) (by cases m <;> rfl)]
    cases m <;> simp [State.atEnd, State.endList, State.countElement, hn, hf, State.raise, State.setMover,
        State.mover, Mover.rest, hb.1]

/-- What a completion in MOVING comes to. -/
theorem State.completeElement_completes (t : State) (m : MoverId) (e : Element) (hb : t.between)
    (hs : (t.mover m).state = .moving) : t.completes m e (.next (t.completeElement m e).finish) := by
  have hf := t.fetcher.start_idle hb.2
  refine ⟨fun h => congrArg _ ?_, fun h => ?_, fun a _ h1 h2 => ?_⟩
  · have hc : e.chainsTo = none := by
      rcases h with ⟨-, h | h⟩ | ⟨h, -⟩
      · simp [Element.chainsTo, h]
      · simp [Element.chainsTo, h]
      · rw [hs] at h; cases h
    exact t.endList_finish _ m e e.next (by simp [State.completeElement, hc]) hb
  · rw [hs] at h; cases h
  · have hc : e.chainsTo = some a := by simp [Element.chainsTo, h1, h2]
    refine ⟨fun hl => congrArg _ ?_, fun f hl hg h3 => congrArg _ ?_, fun f b hl hg h3 h4 => congrArg _ ?_,
      fun f hl hg => congrArg _ ?_, fun k r hl hn => congrArg _ ?_⟩
    all_goals simp only [State.completeElement, hc]
    · cases hn : e.notify
      · rw [State.finish_raisedNone _ (by cases m <;> simp_all [State.chain, State.enterFetching, State.countElement,
          State.setMover, State.mover])]
        cases m <;> simp_all [State.atEnd, State.chain, State.enterFetching, State.countElement, State.setMover,
            State.mover]
      · rw [State.finish_raisedOne _ (.moverNotify m) (by cases m <;> simp_all [State.chain, State.enterFetching,
          State.countElement, State.raise, State.setMover, State.mover])]
        cases m <;> simp_all [State.atEnd, State.chain, State.enterFetching, State.countElement, State.raise,
            State.setMover, State.mover]
    · have hk : f.chainsTo = none := by rcases h3 with h | h <;> simp [Element.chainsTo, h]
      cases ho : f.op with
      | gate => exact absurd ho hg
      | _ => 
        cases hn : e.notify
        · rw [State.finish_raisedNone _ (by cases m <;> simp_all [State.chain, State.becomeCurrent,
            State.countElement, State.setMover, State.mover])]
          cases m <;> simp_all [State.atEnd, State.chain, State.becomeCurrent, State.countElement, State.setMover,
              State.mover]
        · rw [State.finish_raisedOne _ (.moverNotify m) (by cases m <;> simp_all [State.chain, State.becomeCurrent,
            State.countElement, State.raise, State.setMover, State.mover])]
          cases m <;> simp_all [State.atEnd, State.chain, State.becomeCurrent, State.countElement, State.raise,
              State.setMover, State.mover]
    · have hk : f.chainsTo = some b := by simp [Element.chainsTo, h3, h4]
      have hr := t.fetcher.start_setWaiting m b hb.2
      cases ho : f.op with
      | gate => exact absurd ho hg
      | _ => 
        cases hn : e.notify
        · rw [State.finish_raisedNone _ (by cases m <;> simp_all [State.chain, State.becomeCurrent,
            State.countElement, State.setMover, State.mover, State.requestFetch])]
          cases m <;> simp_all [State.atEnd, State.chain, State.becomeCurrent, State.countElement, State.setMover,
              State.mover, State.requestFetch]
        · rw [State.finish_raisedOne _ (.moverNotify m) (by cases m <;> simp_all [State.chain, State.becomeCurrent,
            State.countElement, State.raise, State.setMover, State.mover, State.requestFetch])]
          cases m <;> simp_all [State.atEnd, State.chain, State.becomeCurrent, State.countElement, State.raise,
              State.setMover, State.mover, State.requestFetch]
    · cases hn : e.notify
      · rw [State.finish_raisedOne _ (.moverGate m) (by cases m <;> simp_all [State.chain, State.becomeCurrent,
          State.countElement, State.raise, State.setMover, State.mover])]
        cases m <;> simp_all [State.atEnd, State.chain, State.becomeCurrent, State.countElement, State.raise,
            State.setMover, State.mover]
      · rw [State.finish_raisedTwo _ (.moverNotify m) (.moverGate m) (by cases m <;> simp_all [State.chain,
          State.becomeCurrent, State.countElement, State.raise, State.setMover, State.mover]) (by cases m <;> rfl)]
        cases m <;> simp_all [State.atEnd, State.chain, State.becomeCurrent, State.countElement, State.raise,
            State.setMover, State.mover]
    · cases hn : e.notify
      · rw [State.finish_raisedOne _ (.moverHalted m) (by cases m <;> simp_all [State.chain, State.haltMover,
          State.countElement, State.raise, State.setMover, State.mover])]
        cases m <;> simp_all [State.atEnd, State.chain, State.haltMover, Mover.rest, Mover.noteFault, elementFault,
            State.countElement, State.raise, State.setMover, State.mover]
      · rw [State.finish_raisedTwo _ (.moverNotify m) (.moverHalted m) (by cases m <;> simp_all [State.chain,
          State.haltMover, State.countElement, State.raise, State.setMover, State.mover]) (by cases m <;> rfl)]
        cases m <;> simp_all [State.atEnd, State.chain, State.haltMover, Mover.rest, Mover.noteFault, elementFault,
            State.countElement, State.raise, State.setMover, State.mover]

/-- What a completion in STOPPING comes to. -/
theorem State.completeStopped_completes (t : State) (m : MoverId) (e : Element) (hb : t.between)
    (hs : (t.mover m).state = .stopping .element) : t.completes m e (.next (t.completeStopped m e).finish) := by
  have hf := t.fetcher.start_idle hb.2
  have ho : (t.countElement m e).fetcher = t.fetcher := by
    cases hn : e.notify <;> cases m <;> simp [State.countElement, hn, State.raise, State.setMover]
  refine ⟨fun h => congrArg _ ?_, fun _ h => congrArg _ ?_, fun a h => ?_⟩
  · have hw : t.fetcher.owns m = false := by
      rcases h with ⟨h, -⟩ | ⟨-, h⟩
      · rw [hs] at h; cases h
      · exact h
    exact t.endList_finish _ m e e.next (by simp [State.completeStopped, ho, hw]) hb
  · simp only [State.completeStopped, ho, h, if_true]
    cases hn : e.notify
    · rw [State.finish_raisedNone _ (by cases m <;> simp_all [State.countElement, State.setMover, State.mover])]
      cases m <;> simp_all [State.atEnd, State.countElement, State.setMover, State.mover]
    · rw [State.finish_raisedOne _ (.moverNotify m) (by cases m <;> simp_all [State.countElement, State.raise,
        State.setMover, State.mover])]
      cases m <;> simp_all [State.atEnd, State.countElement, State.raise, State.setMover, State.mover]
  · rw [hs] at h; cases h

/-! ### The end and the failure of a fetch (R13, R16, R23, R33, R34) -/

/-- What the end of a discarded fetch comes to. -/
theorem State.fetchDropped_discardEnds (s : State) (m : MoverId) (e : Option Event) (h : s.raised = e.toList)
    (he : ∀ a ∈ e, a.mover? = none) :
    s.atEnd.discardEnds m e (.next (s.fetchDropped m).finish) := by
  have hm : s.atEnd.mover m = s.mover m := by cases m <;> rfl
  have ended : ∀ r : Option Addr, s.atEnd.setMover m ((s.mover m).ended .idle r) |>.answers e
      (some (.moverDone m)) (.next (s.endList m r).finish) := fun r => by
    have := (s.endList m r).finish_answers e (some (.moverDone m)) (by simp [State.endList, State.raise, h]) he
    cases m <;> exact this
  unfold State.discardEnds
  simp only [hm]
  refine ⟨fun a hs hc => ?_, fun el x hs hc hx => ⟨fun hn => ?_, fun hn => ?_⟩, fun hd => ?_⟩
  · simpa [State.fetchDropped, hs, Mover.currentAddr, hc] using ended (some a)
  · simpa [State.fetchDropped, hs, Mover.xfer, hc, hx, hn] using ended (s.mover m).resume
  · simpa [State.fetchDropped, hs, Mover.xfer, hc, hx, hn] using s.finish_answers e none (by simp [h]) he
  · rcases hd with hd | hd <;> simpa [State.fetchDropped, hd] using s.checkQuiet_released m e h he

/-- What a fetch that fails on the bus comes to. -/
theorem State.fetchResult_fails (s : State) (f : Fetch) (r : MemResult) (hi : s.fetcher.inFlight = some f)
    (hr : s.raised = [.memoryError]) (hf : r.failed = true) :
    State.fetchFails (State.atEnd { s with fetcher := { s.fetcher with inFlight := none } }) f
      (.next (s.fetchResult r).finish) := by
  generalize ht : ({ s with fetcher := { s.fetcher with inFlight := none } } : State) = t
  have tr : t.raised = [.memoryError] := by rw [← ht]; exact hr
  have hm : t.atEnd.mover f.mover = t.mover f.mover := by cases f.mover <;> rfl
  have hx : s.fetchResult r =
      if f.discarded then t.fetchDropped f.mover else t.takeOutcome f.mover f.addr (.failed .fetchMemory) := by
    subst ht
    cases r with
    | done bytes => cases hf
    | _ => simp [State.fetchResult, hi]
  rw [hx]
  unfold State.fetchFails
  simp only [hm]
  refine ⟨fun hd hs hn => ?_, fun hd hs => ?_, fun hd => ?_⟩
  · have := State.finish_answers (t.takeOutcome f.mover f.addr (.failed .fetchMemory)) (some .memoryError)
      (some (.moverHalted f.mover))
      (by simp [State.takeOutcome, State.takeFault, hs, State.haltMover, State.raise, State.setMover]
          cases f.mover <;> simp [tr])
      (by simp [Event.mover?])
    simp only [hd, if_false, Bool.false_eq_true]
    convert this using 1
    cases hmv : f.mover <;>
      simp_all [State.atEnd, State.takeOutcome, State.takeFault, Mover.noteFault, elementFault, State.haltMover,
        State.raise, State.setMover, State.mover, Mover.rest]
  · simp only [hd, if_false, Bool.false_eq_true]
    refine congrArg _ ?_
    rw [State.finish_raisedOne _ .memoryError (by simp [State.takeOutcome, hs]; cases f.mover <;> simp [tr])]
    cases hmv : f.mover <;> simp_all [State.atEnd, State.takeOutcome, State.setMover, State.mover]
  · simp only [hd, if_true]
    exact t.fetchDropped_discardEnds f.mover (some .memoryError) tr (by simp [Event.mover?])

/-! ### The head of the Inbound Memory Queue (R72, R77, R92, R163) -/

/-- What the leaving of the head comes to. -/
theorem State.leaveInboundQueue_headLeaves (t : State) (o : InboundOp) (rest : List InboundOp) (e : Option Event)
    (h : t.imq = o :: rest) (hr : t.raised = e.toList) :
    t.atEnd.headLeaves o rest e (.next t.leaveInboundQueue.finish) := by
  have finish : ∀ u : State, u.raised = t.raised → u.finish = u.atEnd.takes false e none := fun u hu => by
    cases e with
    | none => exact u.finish_raisedNone (hu.trans hr)
    | some a => exact u.finish_raisedOne a (hu.trans hr)
  simp only [State.leaveInboundQueue, h, State.leaveWindow]
  refine ⟨fun hw => congrArg _ ?_, fun g hd hi hg ht => congrArg _ ?_⟩
  · have : ¬(t.windows[o.window].state = .draining ∧ t.windows[o.window].inFlight - 1 = 0) := by
      rcases hw with hw | hw
      · exact fun x => hw x.1
      · exact fun x => absurd x.2 (by change 1 < t.windows[o.window].inFlight at hw; omega)
    rw [if_neg this]
    exact finish _ rfl
  · have hn : t.windows[o.window].inFlight - 1 = 0 := by
      change t.windows[o.window].inFlight ≤ 1 at hi
      omega
    have hdef : t.mgmt.deferred = some g := hg
    rw [if_pos ⟨hd, hn⟩]
    simp only [State.reportCompletion, State.setWindow_mgmt, hdef, ht, if_true]
    exact finish _ rfl

end Sys2Proof.Machine
end

