-- ==== Sys2Proof/Laws/Figures.lean ====
section
/-! SUPPORT. The replies of the queries, byte by byte: what stands at each place of their results. -/

namespace Sys2Proof.Machine

/-- The two bytes of a half-word, put together again, are the half-word. -/
theorem le16_read (x : Half) : ∃ a b : Byte, le16 x = [a, b] ∧ b ++ a = x :=
  ⟨_, _, rfl, by
    apply BitVec.eq_of_getElem_eq
    intro i hi
    simp only [BitVec.getElem_append, BitVec.getElem_setWidth, BitVec.getLsbD_ushiftRight]
    split
    · rw [← BitVec.getLsbD_eq_getElem]
    · rw [← BitVec.getLsbD_eq_getElem]
      exact congrArg _ (by omega)⟩

/-- The four bytes of a word, put together again, are the word. -/
theorem le32_read (x : BitVec 32) : ∃ a b c d : Byte, le32 x = [a, b, c, d] ∧ (d ++ c) ++ (b ++ a) = x :=
  ⟨_, _, _, _, rfl, by
    ext i hi
    simp only [BitVec.getElem_append, BitVec.getElem_setWidth, BitVec.getLsbD_ushiftRight]
    split <;> split <;> rw [← BitVec.getLsbD_eq_getElem] <;> exact congrArg _ (by omega)⟩

/-- WINDOW_QUERY reports every field of the window at its place (R79, R175). -/
theorem Window.bytes_reads (w : Window) : w.reads w.bytes := by
  obtain ⟨a0, a1, a2, a3, ha, ra⟩ := le32_read w.ringBase
  obtain ⟨b0, b1, b2, b3, hb, rb⟩ := le32_read w.cardBase
  obtain ⟨c0, c1, c2, c3, hc, rc⟩ := le32_read w.mask
  obtain ⟨d0, d1, d2, d3, hd, rd⟩ := le32_read w.accepted
  obtain ⟨e0, e1, e2, e3, he, re⟩ := le32_read w.refused
  have hs : w.state.code = if w.state = .closed then 0 else if w.state = .opened then 1 else 2 := by
    cases w.state <;> rfl
  have hr : w.rightsByte.toNat = (if w.canRead then 1 else 0) + (if w.canWrite then 2 else 0) := by
    unfold Window.rightsByte
    cases w.canRead <;> cases w.canWrite <;> rfl
  unfold Window.bytes
  rw [ha, hb, hc, hd, he]
  exact ⟨rfl, hs, ra, rfl, rb, hr, rc, rfl, rd, re⟩

/-- The bits of the presence set are the eight conditions (R181). -/
theorem Mover.presence_bits (v : Mover) :
    v.presence.toNat < 0x100
    ∧ v.presence.getLsbD 0 = v.addr?.isSome ∧ v.presence.getLsbD 1 = v.element.isSome
    ∧ v.presence.getLsbD 2 = v.xfer.isSome ∧ v.presence.getLsbD 3 = v.resume.isSome
    ∧ v.presence.getLsbD 4 = v.fault.isSome ∧ v.presence.getLsbD 5 = (v.fault.bind (·.remote)).isSome
    ∧ v.presence.getLsbD 6 = (v.fault.bind (·.tag)).isSome
    ∧ v.presence.getLsbD 7 = (v.fault.bind (·.nak)).isSome := by
  unfold Mover.presence
  generalize v.addr?.isSome = b0
  generalize v.element.isSome = b1
  generalize v.xfer.isSome = b2
  generalize v.resume.isSome = b3
  generalize v.fault.isSome = b4
  generalize (v.fault.bind (·.remote)).isSome = b5
  generalize (v.fault.bind (·.tag)).isSome = b6
  generalize (v.fault.bind (·.nak)).isSome = b7
  revert b0 b1 b2 b3 b4 b5 b6 b7
  decide

/-- MOVER_QUERY reports every field of the mover at its place (R45, R181). -/
theorem Mover.bytes_reads (v : Mover) : v.reads v.bytes := by
  obtain ⟨p0, p1, hp, rp⟩ := le16_read v.presence
  obtain ⟨a0, a1, a2, a3, ha, ra⟩ := le32_read (v.addr?.getD 0)
  obtain ⟨b0, b1, b2, b3, hb, rb⟩ := le32_read ((v.xfer.map (fun x => count32 x.byteCount)).getD 0)
  obtain ⟨c0, c1, c2, c3, hc, rc⟩ := le32_read ((v.xfer.map (fun _ => count32 v.issued)).getD 0)
  obtain ⟨d0, d1, d2, d3, hd, rd⟩ := le32_read ((v.xfer.map (fun _ => count32 v.settled)).getD 0)
  obtain ⟨e0, e1, he, re⟩ := le16_read (BitVec.ofNat 16 v.piecesInFlight)
  obtain ⟨f0, f1, hf, rf⟩ := le16_read v.completed
  obtain ⟨g0, g1, g2, g3, hg, rg⟩ := le32_read (v.resume.getD 0)
  obtain ⟨h0, h1, h2, h3, hh, rh⟩ := le32_read ((v.fault.map (·.elemAddr)).getD 0)
  obtain ⟨i0, i1, i2, i3, hi, ri⟩ := le32_read ((v.fault.bind (·.remote)).getD 0)
  obtain ⟨q, q0, q1, q2, q3, q4, q5, q6, q7⟩ := v.presence_bits
  unfold Mover.bytes field32 field8
  rw [hp, ha, hb, hc, hd, he, hf, hg, hh, hi]
  simp only [Mover.reads, List.cons_append, List.nil_append]
  simp only [halfAt, wordAt, byteAt, List.getD_cons_succ, List.getD_cons_zero, Nat.reduceAdd, List.length_cons,
    List.length_nil, rp, ra, rb, rc, rd, re, rf, rg, rh, ri, q0, q1, q2, q3, q4, q5, q6, q7, true_and]
  have hst : v.state.code = v.state.figure := by cases v.state <;> rfl
  have hca : v.state.causeCode =
      if v.state = .stopping .element then 1 else if v.state = .stopping .fetch then 2 else 0 := by
    rcases v.state with _ | _ | _ | _ | (_ | _) | _ | _ | _ <;> rfl
  have hk : ∀ k : FaultKind, k.code = k.figure := fun k => by cases k <;> rfl
  refine ⟨hst, hca, q, ?_, ?_, ?_, ?_, ?_, ?_⟩
  · intro h; simp [Mover.addr?, Mover.element, h]
  · intro a h; simp [Mover.addr?, Mover.element, h]
  · intro e h
    refine ⟨by simp [Mover.addr?, h], by simp [Mover.element, h], by simp [Mover.addr?, h], ?_, ?_, ?_⟩ <;>
      intros <;> simp_all [Mover.element, ElemOp.code]
  · intro x h; simp [h, count32]
  · intro h; simp [h]
  · refine ⟨?_, ?_, ?_, ?_, ?_, ?_⟩
    · intro h; simp [h, LookAhead.code]
    · intro h; simp [h, LookAhead.code]
    · intro e h; simp [h, LookAhead.code]
    · intro k a h; simp [h, LookAhead.code]
    · intro h; simp [h]
    · intro f h; simp [h, hk]

/-- A count over a table is the count over its indices. -/
theorem countP_toList {α : Type} {n : Nat} (v : Vector α n) (p : α → Bool) :
    v.toList.countP p = (List.finRange n).countP (fun i => p v[i]) := by
  have h : v.toList = (List.finRange n).map (fun i => v[i]) :=
    List.ext_getElem (by simp) (by simp)
  rw [h, List.countP_map]
  rfl

/-- READ_STATUS reports every figure at its place (R170). -/
theorem State.statusBytes_reads (s : State) : s.statusReads s.statusBytes := by
  obtain ⟨n0, n1, hn, rn⟩ := le16_read s.events.number
  have hm : ∀ m : MoverState, m.code = m.figure := fun m => by cases m <;> rfl
  have hb : s.freeBuffers = (List.finRange 8).countP (fun b => s.bufferFree b) := by
    unfold State.freeBuffers
    exact List.countP_congr fun b _ => by rw [State.grantable_iff, decide_eq_true_eq]
  have read : ∀ l0 l1 : Byte, (s.mgmt.lastSeq = none → l0 = 0 ∧ l1 = 0) →
      (∀ q, s.mgmt.lastSeq = some q → l0 = 1 ∧ l1 = q) →
      s.statusReads ([s.ownByte, match s.ring.link with | .down => 0x00 | .up => 0x01] ++ s.mgmt.claim.bytes
        ++ [s.mover0.state.code, s.mover1.state.code,
            byteOf (s.windows.toList.countP (fun w => w.state = .opened)),
            byteOf (s.tags.toList.countP Tag.isFree), byteOf (s.tags.toList.countP Tag.isWaiting),
            byteOf (s.tags.toList.countP Tag.isAbandoned), byteOf (s.tags.toList.countP Tag.isQuarantined),
            byteOf s.freeBuffers, byteOf s.ring.transit.length, byteOf s.inbound.queue.length,
            byteOf s.imq.length, byteOf s.replyQueue.length, byteOf s.requestQueue.length,
            match s.events.state with | .idle => 0x00 | .sent => 0x01]
        ++ le16 s.events.number ++ [l0, l1]) := fun l0 l1 ln ls => by
    rw [hn]
    simp only [countP_toList, hm, hb]
    refine ⟨rfl, rfl, ?_, ?_, ?_, ?_, rfl, rfl, rfl, congrArg byteOf ?_, congrArg byteOf ?_,
      congrArg byteOf ?_, congrArg byteOf ?_, rfl, rfl, rfl, rfl, rfl, rfl, ?_, rn, ln, ls⟩
    · cases s.ring.link <;> rfl
    · intro h; simp only [h]; exact ⟨rfl, rfl⟩
    · intro m h; simp only [h]; exact ⟨rfl, rfl⟩
    · intro m h; simp only [h]; exact ⟨rfl, rfl⟩
    · exact List.countP_congr fun t _ => by cases s.tags[t] <;> simp [Tag.isFree]
    · exact List.countP_congr fun t _ => by cases s.tags[t] <;> simp [Tag.isWaiting]
    · exact List.countP_congr fun t _ => by cases s.tags[t] <;> simp [Tag.isAbandoned]
    · exact List.countP_congr fun t _ => by cases s.tags[t] <;> simp [Tag.isQuarantined]
    · cases s.events.state <;> rfl
  unfold State.statusBytes
  rcases hq : s.mgmt.lastSeq with _ | q
  · exact read 0 0 (fun _ => ⟨rfl, rfl⟩) (by simp [hq])
  · exact read 1 q (by simp [hq]) (by simp [hq])
end Sys2Proof.Machine
end

