-- ==== Sys2Proof/Laws/Management.lean ====
section
/-! SUPPORT. The Management Unit's taking of a cell: what it does with each kind of cell that it takes. -/

namespace Sys2Proof.Machine

/-- A slot as a byte is at most 31. -/
theorem slotByte_le (m : Slot) : (slotByte m).toNat ≤ 31 := by
  have := m.isLt
  simp [slotByte]
  omega

/-- A slot's byte names it. -/
theorem slotByte_setWidth (m : Slot) : (slotByte m).setWidth 5 = m := by
  apply BitVec.eq_of_toNat_eq
  simp [slotByte]

theorem slotByte_inj {m n : Slot} (h : slotByte m = slotByte n) : m = n := by
  rw [← slotByte_setWidth m, h, slotByte_setWidth]

/-- A mover's byte names it. -/
theorem moverOf_moverByte (m : MoverId) : moverOf (moverByte m) = some m := by cases m <;> rfl

/-- A byte above 1 names no mover. -/
theorem moverOf_none {b : Byte} (h : 2 ≤ b.toNat) : moverOf b = none := by
  unfold moverOf
  split
  · next h0 => subst h0; simp at h
  · split
    · next h1 => subst h1; simp at h
    · rfl

theorem tagOf_byteOf (t : TagNo) : tagOf (byteOf t.val) = some t := by
  revert t
  decide

theorem windowOf_byteOf (w : WindowNo) : windowOf (byteOf w.val) = some w := by
  revert w
  decide

theorem windowOf_none {b : Byte} (h : 15 < b.toNat) : windowOf b = none := by
  unfold windowOf
  rw [dif_neg (by omega)]

/-- A new command of the manager with the request's length is executed by its entry, on the state in which the
cell has been taken and the claim is CLAIMED (R157, R158, R161, R162). -/
theorem State.takeMgmt_new {s : State} {c : RxCell} {m : Slot} {cmd : Command} (h : s.newCommand c m)
    (hc : commandOf c.payload = some cmd) (hl : c.payload.length = cmd.requestLength) (entry : Entry)
    (stranger : Stranger) :
    s.takeMgmt (some cmd) entry stranger =
      (State.conclude
        (entry c { s with inbound := s.inbound.taken, mgmt := { s.mgmt with claim := .claimed m } }).1 c
        (entry c { s with inbound := s.inbound.taken, mgmt := { s.mgmt with claim := .claimed m } }).2
        ).restartLapse := by
  obtain ⟨⟨h1, h2, h3, h4, h5⟩, h6, h7, h8, h9⟩ := h
  have hs : ¬31 < (slotByte m).toNat := by have := slotByte_le m; omega
  have hr : s.mgmt.claim.renew = .claimed m := by
    revert h6; cases s.mgmt.claim <;> simp [Claim.manager, Claim.renew]
  rcases s with ⟨ring, ⟨queue, hand⟩, imq, windows, pool, rq, rp, fetcher, v0, v1, tags, port,
    ⟨mode, cl, lt, ls, st, df, rl, rd, pr⟩, events, mem, now, free, raised, pending⟩
  simp only at h1 h2 h3 h4 h5 h6 h7 h8 h9 hr
  subst h1 h3 h4 h5 h8
  rcases h9 with rfl | h9
  · simp [State.takeMgmt, State.mgmtInHand, h2, hc, Mgmt.replyWaiting, State.handleCell, hs,
      State.fromManager, State.endHandling, h6, h7, State.handleManager, hr, State.execute, hl,
      Inbound.taken]
  · cases st <;>
      simp [State.takeMgmt, State.mgmtInHand, h2, hc, Mgmt.replyWaiting, State.handleCell, hs,
        State.fromManager, State.endHandling, h6, h7, State.handleManager, hr, h9, State.execute, hl,
        Inbound.taken]

/-- The end of an execution with an immediate reply, in a state that has taken the cell (R159, R162). -/
theorem State.conclude_reply (s : State) (c : RxCell) (m : Slot) (st : Status) (results : List Byte)
    (h : s.mgmt.claim = .claimed m) (hs : st = .ok ∨ results = []) :
    (s.conclude c (.reply st results)).restartLapse =
      { s with mgmt := s.mgmt.answered s.now c m st results } := by
  rcases s with ⟨ring, inb, imq, windows, pool, rq, rp, fetcher, v0, v1, tags, port,
    ⟨mode, cl, lt, ls, sto, df, rl, rd, pr⟩, events, mem, now, free, raised, pending⟩
  simp only at h
  subst h
  rcases hs with rfl | rfl <;>
    simp [State.conclude, State.restartLapse, State.sendReply, State.store, RxCell.replyWith, RxCell.codeByte,
      replyPayload, Mgmt.answered, lapseExpiry, RxCell.waitingReply]

/-- A new command whose entry answers at once with a status and results, and changes the state to `t`: the
whole of what the Management Unit does. -/
theorem State.takeMgmt_answered {s t : State} {c : RxCell} {m : Slot} {cmd : Command} {st : Status}
    {results : List Byte} (h : s.newCommand c m) (hc : commandOf c.payload = some cmd)
    (hl : c.payload.length = cmd.requestLength) (entry : Entry) (stranger : Stranger)
    (he : entry c { s with inbound := s.inbound.taken, mgmt := { s.mgmt with claim := .claimed m } }
      = (t, .reply st results))
    (ht : t.mgmt.claim = .claimed m) (hs : st = .ok ∨ results = []) :
    s.takeMgmt (some cmd) entry stranger = { t with mgmt := t.mgmt.answered t.now c m st results } := by
  rw [State.takeMgmt_new h hc hl, he]
  exact State.conclude_reply t c m st results ht hs

/-- A new command that is refused, or reads only, leaves `State.answered`. -/
theorem State.takeMgmt_plain {s : State} {c : RxCell} {m : Slot} {cmd : Command} {st : Status}
    {results : List Byte} (h : s.newCommand c m) (hc : commandOf c.payload = some cmd)
    (hl : c.payload.length = cmd.requestLength) (entry : Entry) (stranger : Stranger)
    (he : entry c { s with inbound := s.inbound.taken, mgmt := { s.mgmt with claim := .claimed m } }
      = ({ s with inbound := s.inbound.taken, mgmt := { s.mgmt with claim := .claimed m } },
        .reply st results))
    (hs : st = .ok ∨ results = []) :
    s.takeMgmt (some cmd) entry stranger = s.answered c m st results := by
  rw [State.takeMgmt_answered h hc hl entry stranger he rfl hs]
  rfl

/-- In RESETTING the cell in hand is discarded (R157). -/
theorem State.takeMgmt_resetting {s : State} {c : RxCell} {k : Option Command}
    (h1 : s.inbound.hand = some .management) (h2 : s.inbound.queue.head? = some c)
    (hm : s.mgmt.mode = .resetting) (hc : commandOf c.payload = k) (entry : Entry) (stranger : Stranger) :
    s.takeMgmt k entry stranger = { s with inbound := s.inbound.taken } := by
  simp [State.takeMgmt, State.mgmtInHand, h1, h2, hc, hm, State.endHandling, Inbound.taken]

/-- With no such cell in hand, or while a reply of the unit's own waits, a management command does nothing. -/
theorem State.takeMgmt_waits {s : State} {k : Option Command} (entry : Entry) (stranger : Stranger)
    (h : s.inbound.hand ≠ some .management ∨ s.mgmt.mode = .ready ∧ s.mgmt.replyWaiting = true) :
    s.takeMgmt k entry stranger = s := by
  unfold State.takeMgmt State.mgmtInHand
  rcases h with h | ⟨h, hw⟩
  · cases hh : s.inbound.hand with
    | none => rfl
    | some w => cases w <;> first | rfl | exact absurd hh h
  · rw [h, hw]
    split
    · split <;> rfl
    · rfl

end Sys2Proof.Machine
end

