-- ==== Sys2Proof/Laws/Memory.lean ====
section
/-! SUPPORT. The record of card memory: what each operation on it does, and that each keeps the canonical form. -/

namespace Sys2Proof.Machine

/-! ### What one byte set does -/

theorem memGet_memSet_same (mem : List Host.Cell) (x : Nat) (v : Byte) :
    memGet (memSet mem x v) x = some v := by
  induction mem with
  | nil => simp [memSet, memGet]
  | cons p rest ih =>
    obtain ⟨a, b⟩ := p
    simp only [memSet]
    split
    · simp [memGet]
    · split
      · next h => simp [memGet, h]
      · next h => simp [memGet, h, ih]

theorem memGet_memSet_other (mem : List Host.Cell) (x y : Nat) (v : Byte) (h : y ≠ x) :
    memGet (memSet mem x v) y = memGet mem y := by
  induction mem with
  | nil => simp [memSet, memGet, h]
  | cons p rest ih =>
    obtain ⟨a, b⟩ := p
    simp only [memSet]
    split
    · simp [memGet, h]
    · split
      · next e => subst e; simp [memGet, h]
      · simp only [memGet, ih]

/-! ### The canonical form -/

/-- Every entry lies above `x`. -/
def memAbove (x : Nat) (mem : List Host.Cell) : Prop := ∀ p ∈ mem, x < p.1

theorem memWf_cons (a : Nat) (b : Byte) (rest : List Host.Cell) :
    memWf ((a, b) :: rest) = true ↔ memAbove a rest ∧ memWf rest = true := by
  induction rest generalizing a b with
  | nil => simp [memWf, memAbove]
  | cons p tail ih =>
    obtain ⟨c, d⟩ := p
    have hc := ih c d
    simp only [memWf, Bool.and_eq_true, decide_eq_true_eq] at *
    constructor
    · rintro ⟨h1, h2⟩
      refine ⟨?_, h2⟩
      intro q hq
      rcases List.mem_cons.mp hq with rfl | hq
      · exact h1
      · exact Nat.lt_trans h1 ((hc.mp h2).1 q hq)
    · rintro ⟨h1, h2⟩
      exact ⟨h1 (c, d) (by simp), h2⟩

theorem memAbove_memSet (mem : List Host.Cell) (z x : Nat) (v : Byte) (h : memAbove z mem) (hz : z < x) :
    memAbove z (memSet mem x v) := by
  induction mem with
  | nil =>
    intro q hq
    simp only [memSet, List.mem_singleton] at hq
    subst hq
    exact hz
  | cons p rest ih =>
    obtain ⟨a, b⟩ := p
    have ha : z < a := h (a, b) (by simp)
    have hr : memAbove z rest := fun q hq => h q (by simp [hq])
    simp only [memSet]
    split
    · intro q hq
      rcases List.mem_cons.mp hq with rfl | hq
      · exact hz
      · exact h q hq
    · split
      · intro q hq
        rcases List.mem_cons.mp hq with rfl | hq
        · exact ha
        · exact hr q hq
      · intro q hq
        rcases List.mem_cons.mp hq with rfl | hq
        · exact ha
        · exact ih hr q hq

theorem memWf_memSet (mem : List Host.Cell) (x : Nat) (v : Byte) (h : memWf mem = true) :
    memWf (memSet mem x v) = true := by
  induction mem with
  | nil => simp [memSet, memWf]
  | cons p rest ih =>
    obtain ⟨a, b⟩ := p
    have hr := (memWf_cons a b rest).mp h
    simp only [memSet]
    split
    · next hx =>
      refine (memWf_cons x v _).mpr ⟨?_, h⟩
      intro q hq
      rcases List.mem_cons.mp hq with rfl | hq
      · exact hx
      · exact Nat.lt_trans hx (hr.1 q hq)
    · next hx =>
      split
      · exact (memWf_cons a v rest).mpr hr
      · next hne =>
        refine (memWf_cons a b _).mpr ⟨?_, ih hr.2⟩
        exact memAbove_memSet rest a x v hr.1 (by omega)

theorem memWf_memWrite (mem : List Host.Cell) (x : Nat) (vs : List Byte) (h : memWf mem = true) :
    memWf (memWrite mem x vs) = true := by
  induction vs generalizing mem x with
  | nil => exact h
  | cons v vs ih => exact ih _ _ (memWf_memSet mem x v h)

theorem memWf_memLeave (k : Nat) (mem : List Host.Cell) (x : Nat) (vs : List Byte)
    (h : memWf mem = true) : memWf (memLeave k mem x vs) = true := by
  induction vs generalizing mem x with
  | nil => exact h
  | cons v vs ih => exact ih _ _ (memWf_memSet mem x _ h)

theorem memWf_reset : memWf State.reset.cardMem = true := rfl

/-! ### What a whole range does -/

theorem memGet_memWrite_outside (mem : List Host.Cell) (x y : Nat) (vs : List Byte)
    (h : y < x ∨ x + vs.length ≤ y) : memGet (memWrite mem x vs) y = memGet mem y := by
  induction vs generalizing mem x with
  | nil => rfl
  | cons v vs ih =>
    simp only [List.length_cons] at h
    rw [memWrite, ih _ _ (by omega), memGet_memSet_other _ _ _ _ (by omega)]

theorem memGet_memLeave_outside (k : Nat) (mem : List Host.Cell) (x y : Nat) (vs : List Byte)
    (h : y < x ∨ x + vs.length ≤ y) : memGet (memLeave k mem x vs) y = memGet mem y := by
  induction vs generalizing mem x with
  | nil => rfl
  | cons v vs ih =>
    simp only [List.length_cons] at h
    rw [memLeave, ih _ _ (by omega), memGet_memSet_other _ _ _ _ (by omega)]

theorem memGet_memWrite_inside (mem : List Host.Cell) (x i : Nat) (vs : List Byte) (h : i < vs.length) :
    memGet (memWrite mem x vs) (x + i) = some vs[i] := by
  induction vs generalizing mem x i with
  | nil => simp at h
  | cons v vs ih =>
    cases i with
    | zero =>
      simp only [memWrite, Nat.add_zero, List.getElem_cons_zero]
      rw [memGet_memWrite_outside _ _ _ _ (by omega), memGet_memSet_same]
    | succ j =>
      simp only [List.length_cons] at h
      have := ih (memSet mem x v) (x + 1) j (by omega)
      rw [show x + 1 + j = x + (j + 1) by omega] at this
      rw [memWrite, this]
      simp

end Sys2Proof.Machine
end

