-- ==== Sys2Proof/Laws/Inbound.lean ====
section
/-! SUPPORT. Inbound service and the Card Memory Port: what each shared operation can do. -/

namespace Sys2Proof.Machine

/-- A NAK is placed, which ends the handling, or waits (R90). -/
theorem State.nak_cases (s : State) (h : Header) (r : NakReason) :
    (s.replyQueue.length < 8 ∧ s.nak h r =
        { s with replyQueue := s.replyQueue ++ [s.nakCell h r], inbound := s.inbound.taken })
      ∨ (¬s.replyQueue.length < 8 ∧ s.nak h r =
        { s with inbound := { s.inbound with hand := some (.nakPlace r) } }) := by
  unfold State.nak State.replyRoom Config.replyDepth
  by_cases hr : s.replyQueue.length < 8
  · exact .inl ⟨hr, by simp [hr]; rfl⟩
  · exact .inr ⟨hr, by simp [hr]; rfl⟩

/-- A refusal counts at the matched window, raises INBOUND_REFUSED and answers with a NAK (R70). -/
theorem State.refuse_eq (s : State) (h : Header) (r : NakReason) (w : Option WindowNo) :
    s.refuse h r w = ((s.countRefused w).raise .inboundRefused).nak h r := rfl

/-- The attempt at an admission: no place, an admission, or a refusal (R84, R85, R92). -/
theorem State.tryAdmit_cases (s : State) (c : RxCell) (b : Option BufNo) :
    (¬s.imq.length < 4 ∧ s.tryAdmit c b = s.wait (.memoryPlace b))
      ∨ (∃ w a, s.imq.length < 4 ∧ s.lookupCell c.header = .accepted w a
          ∧ s.tryAdmit c b = (s.enqueueInbound c b w a).endHandling)
      ∨ (∃ r w, s.imq.length < 4 ∧ s.lookupCell c.header = .refused r w
          ∧ s.tryAdmit c b = ((match b with
              | some b => s.freeBuffer b
              | none => s).refuse c.header r w)) := by
  unfold State.tryAdmit Config.inboundDepth
  by_cases h : s.imq.length < 4
  · rw [if_pos h]
    cases hl : s.lookupCell c.header with
    | accepted w a => exact .inr (.inl ⟨w, a, h, rfl, rfl⟩)
    | refused r w => exact .inr (.inr ⟨r, w, h, rfl, rfl⟩)
  · exact .inl ⟨h, by rw [if_neg h]⟩

/-- An operation leaves its window: the count decreases, and a DRAINING window that reaches 0 closes and
reports it (R72, R77). -/
theorem State.leaveWindow_cases (s : State) (w : WindowNo) :
    (¬(s.windows[w].state = .draining ∧ s.windows[w].inFlight - 1 = 0) ∧ s.leaveWindow w =
        s.setWindow w { s.windows[w] with inFlight := s.windows[w].inFlight - 1 })
      ∨ (s.windows[w].state = .draining ∧ s.windows[w].inFlight - 1 = 0 ∧ s.leaveWindow w =
        (s.setWindow w { s.windows[w] with inFlight := 0, state := .closed }).reportCompletion
          (.windowClose w)) := by
  unfold State.leaveWindow
  simp only
  split
  · next h => exact .inr ⟨h.1, h.2, by rw [h.2]⟩
  · next h => exact .inl ⟨h, rfl⟩

/-- The end of an operation on the bus changes, of itself, the record of card memory alone (R126, R127). -/
theorem State.memoryEffect_frame (s : State) (p : PortOp) (r : MemResult) :
    ∃ mem k, s.memoryEffect p r = { s with cardMem := mem, free := k } := by
  unfold State.memoryEffect
  split <;> exact ⟨_, _, rfl⟩

/-- It keeps the record's canonical form. -/
theorem State.memoryEffect_wf (s : State) (p : PortOp) (r : MemResult) (h : memWf s.cardMem = true) :
    memWf (s.memoryEffect p r).cardMem = true := by
  unfold State.memoryEffect
  split
  · exact memWf_memWrite _ _ _ h
  · exact h
  · exact memWf_memWrite _ _ _ h
  · exact memWf_memLeave _ _ _ _ h

/-- An operation that ends hands its result to its requester, and a failure raises MEMORY_ERROR (R128). -/
theorem State.endOperation_eq (s : State) (p : PortOp) (r : MemResult) :
    s.endOperation p r = State.handResult
      { s.memoryEffect p r with port := { (s.memoryEffect p r).port with inFlight := none } } p.requester r := rfl

/-- The head of the Inbound Memory Queue goes AT_PORT; the others stay as they are (R92). -/
theorem presentHead_length (l : List InboundOp) : (presentHead l).length = l.length := by
  cases l <;> rfl

theorem presentHead_window (l : List InboundOp) (w : WindowNo) :
    (presentHead l).countP (fun o => o.window = w) = l.countP (fun o => o.window = w) := by
  cases l with
  | nil => rfl
  | cons o l =>
    simp only [presentHead, List.countP_cons]
    cases o.stage <;> rfl

/-- When all but the head are QUEUED, the head is not after it goes AT_PORT. -/
theorem presentHead_staged (l : List InboundOp) (h : ∀ o ∈ l.drop 1, o.stage = .queued) :
    (∀ o ∈ (presentHead l).take 1, o.stage ≠ .queued) ∧ ∀ o ∈ (presentHead l).drop 1, o.stage = .queued := by
  cases l with
  | nil => simp [presentHead]
  | cons o l =>
    refine ⟨?_, by simpa [presentHead] using h⟩
    simp only [presentHead, List.take_succ_cons, List.take_zero, List.mem_singleton]
    rintro x rfl
    split
    · simp
    · next hs => exact hs

end Sys2Proof.Machine
end

