-- ==== Sys2Proof/Laws/Withdraw.lean ====
section
/-! SUPPORT. The withdrawal of a mover and a fault that it takes, in the words of their rules: what becomes of its
cells, tags, buffers and fetch, and that those of the other mover stay. -/

namespace Sys2Proof.Machine

/-! ### Giving up tags and buffers -/

/-- From `s` to `u` the tags `T`, as far as they are WAITING without a deadline, and the buffers `B` have been
freed on behalf of mover `m`, and nothing else of a withdrawal has happened. -/
def Frees (m : MoverId) (T : TagNo → Prop) (B : BufNo → Prop) (s u : State) : Prop :=
  (∀ t : TagNo, (∀ i, s.tags[t] = .waiting i none → T t → u.tags[t] = .free)
    ∧ ((∀ i, s.tags[t] = .waiting i none → ¬T t) → u.tags[t] = s.tags[t]))
  ∧ (∀ b : BufNo, (B b → u.pool[b] = .free) ∧ (¬B b → u.pool[b] = s.pool[b]))
  ∧ (u.requestQueue = s.requestQueue ∧ u.replyQueue = s.replyQueue ∧ u.fetcher = s.fetcher ∧ u.ring = s.ring)
  ∧ ((u.mover m).queue = (s.mover m).queue ∧ (u.mover m).lookAhead = (s.mover m).lookAhead)
  ∧ ∀ n, n ≠ m →
    u.mover n = { s.mover n with tagsHeld := (u.mover n).tagsHeld, buffersHeld := (u.mover n).buffersHeld }
    ∧ ((∀ t : TagNo, T t → s.tags[t].owner ≠ some n) → (∀ b : BufNo, B b → s.pool[b].holdingMover ≠ some n) →
      u.mover n = s.mover n)

theorem Frees.refl (m : MoverId) (s : State) : Frees m (fun _ => False) (fun _ => False) s s :=
  ⟨fun _ => ⟨fun _ _ h => h.elim, fun _ => rfl⟩, fun _ => ⟨fun h => h.elim, fun _ => rfl⟩,
    ⟨rfl, rfl, rfl, rfl⟩, ⟨rfl, rfl⟩, fun _ _ => ⟨rfl, fun _ _ => rfl⟩⟩

theorem Frees.trans {m : MoverId} {T T' : TagNo → Prop} {B B' : BufNo → Prop} {s t u : State}
    (h : Frees m T B s t) (g : Frees m T' B' t u) : Frees m (fun n => T n ∨ T' n) (fun b => B b ∨ B' b) s u := by
  obtain ⟨h1, h2, ⟨h3, h4, h5, h6⟩, ⟨h7, h8⟩, h9⟩ := h
  obtain ⟨g1, g2, ⟨g3, g4, g5, g6⟩, ⟨g7, g8⟩, g9⟩ := g
  refine ⟨fun n => ⟨fun i hi hT => ?_, fun hT => ?_⟩, fun b => ⟨fun hB => ?_, fun hB => ?_⟩,
    ⟨g3.trans h3, g4.trans h4, g5.trans h5, g6.trans h6⟩, ⟨g7.trans h7, g8.trans h8⟩, fun n hn => ⟨?_, fun a b => ?_⟩⟩
  · by_cases hn : T n
    · have := (h1 n).1 i hi hn
      rw [(g1 n).2 (fun j hj => by rw [this] at hj; cases hj), this]
    · have := (h1 n).2 (fun _ _ => hn)
      exact (g1 n).1 i (this.trans hi) (hT.resolve_left hn)
  · have := (h1 n).2 (fun i hi hn => hT i hi (.inl hn))
    rw [(g1 n).2 (fun i hi hn => hT i (this ▸ hi) (.inr hn)), this]
  · by_cases hb : B' b
    · exact (g2 b).1 hb
    · rw [(g2 b).2 hb, (h2 b).1 (hB.resolve_right hb)]
  · rw [(g2 b).2 (fun x => hB (.inr x)), (h2 b).2 (fun x => hB (.inl x))]
  · rw [(g9 n hn).1, (h9 n hn).1]
  · have e := (h9 n hn).2 (fun t ht => a t (.inl ht)) (fun x hx => b x (.inl hx))
    rw [← e]
    refine (g9 n hn).2 (fun t ht ho => ?_) (fun x hx ho => ?_)
    · by_cases hw : ∃ i, s.tags[t] = .waiting i none ∧ T t
      · obtain ⟨i, hi, hT⟩ := hw
        rw [(h1 t).1 i hi hT] at ho
        cases ho
      · rw [(h1 t).2 (fun i hi hT => hw ⟨i, hi, hT⟩)] at ho
        exact a t (.inr ht) ho
    · by_cases hb : B x
      · rw [(h2 x).1 hb] at ho
        cases ho
      · rw [(h2 x).2 hb] at ho
        exact b x (.inr hx) ho

theorem Frees.congr {m : MoverId} {T T' : TagNo → Prop} {B B' : BufNo → Prop} {s u : State}
    (h : Frees m T B s u) (ht : ∀ t, T t ↔ T' t) (hb : ∀ b, B b ↔ B' b) : Frees m T' B' s u := by
  rw [show T' = T from funext fun t => propext (ht t).symm, show B' = B from funext fun b => propext (hb b).symm]
  exact h

/-- A record of mover `m` with the same memory queue and look-ahead. -/
theorem Frees.setMover (m : MoverId) (s : State) (v : Mover) (hq : v.queue = (s.mover m).queue)
    (hl : v.lookAhead = (s.mover m).lookAhead) :
    Frees m (fun _ => False) (fun _ => False) s (s.setMover m v) := by
  refine ⟨fun _ => ⟨fun _ _ h => h.elim, fun _ => ?_⟩, fun _ => ⟨fun h => h.elim, fun _ => ?_⟩, ?_, ?_,
    fun n hn => ?_⟩
  · cases m <;> rfl
  · cases m <;> rfl
  · cases m <;> exact ⟨rfl, rfl, rfl, rfl⟩
  · cases m <;> exact ⟨hq, hl⟩
  · cases m <;> cases n <;> first | exact absurd rfl hn | exact ⟨rfl, fun _ _ => rfl⟩

theorem Frees.dropPiece (m : MoverId) (s : State) :
    Frees m (fun _ => False) (fun _ => False) s (s.dropPiece m) :=
  Frees.setMover m s { s.mover m with piecesInFlight := (s.mover m).piecesInFlight - 1 } rfl rfl

theorem Frees.freeBuffer (m : MoverId) (s : State) (b : BufNo) :
    Frees m (fun _ => False) (fun x => x = b) s (s.freeBuffer b) := by
  have pool : ∀ x : BufNo, (x = b → (s.pool.set b .free)[x] = Buffer.free)
      ∧ (x ≠ b → (s.pool.set b .free)[x] = s.pool[x]) := fun x =>
    ⟨fun e => by subst e; simp, fun e => by
      simp only [Fin.getElem_fin]
      exact Vector.getElem_set_ne _ _ (fun h => e (Fin.ext h.symm))⟩
  unfold State.freeBuffer
  split
  · next k st h =>
    refine ⟨fun _ => ⟨fun _ _ h => h.elim, fun _ => ?_⟩, fun x => ⟨fun e => ?_, fun e => ?_⟩, ?_, ?_,
      fun n hn => ⟨?_, fun _ hb => ?_⟩⟩
    · cases k <;> rfl
    · cases k <;> exact (pool x).1 e
    · cases k <;> exact (pool x).2 e
    · cases k <;> exact ⟨rfl, rfl, rfl, rfl⟩
    · cases k <;> cases m <;> exact ⟨rfl, rfl⟩
    · cases k <;> cases n <;> rfl
    · have : k ≠ n := fun e => hb b rfl (by rw [h]; simp [Buffer.holdingMover, e])
      cases k <;> cases n <;> first | exact absurd rfl this | rfl
  · exact ⟨fun _ => ⟨fun _ _ h => h.elim, fun _ => rfl⟩, pool, ⟨rfl, rfl, rfl, rfl⟩, by cases m <;> exact ⟨rfl, rfl⟩,
      fun n _ => by cases n <;> exact ⟨rfl, fun _ _ => rfl⟩⟩

theorem Frees.freeUnsent (m : MoverId) (s : State) (t : TagNo) :
    Frees m (fun x => x = t) (fun _ => False) s (s.freeUnsent t) := by
  have same : ∀ x : TagNo, x ≠ t → (s.tags.set t .free)[x] = s.tags[x] := fun x e => by
    simp only [Fin.getElem_fin]
    exact Vector.getElem_set_ne _ _ (fun h => e (Fin.ext h.symm))
  unfold State.freeUnsent
  split
  · next i h =>
    have hf : s.freeTag t = (s.setTag t .free).setMover i.origin
        { s.mover i.origin with tagsHeld := (s.mover i.origin).tagsHeld - 1 } := by
      simp [State.freeTag, State.dropTag, h, Tag.owner]
    have ht : (s.freeTag t).tags = s.tags.set t .free := State.dropTag_tags s t .free
    refine ⟨fun x => ⟨fun j hj e => ?_, fun e => ?_⟩, fun b => ⟨fun h => h.elim, fun _ => ?_⟩, ?_, ?_,
      fun n hn => ⟨?_, fun hT _ => ?_⟩⟩
    · rw [ht]; subst e; simp
    · have : x ≠ t := fun he => e i (he ▸ h) he
      rw [ht]; exact same x this
    · rw [hf]; cases i.origin <;> rfl
    · rw [hf]; cases i.origin <;> exact ⟨rfl, rfl, rfl, rfl⟩
    · rw [hf]; cases i.origin <;> cases m <;> exact ⟨rfl, rfl⟩
    · rw [hf]; cases i.origin <;> cases n <;> rfl
    · have : i.origin ≠ n := fun e => hT t rfl (by rw [h]; simp [Tag.owner, e])
      rw [hf]
      cases hi : i.origin <;> cases n <;> first | exact absurd hi this | rfl
  · next h =>
    exact ⟨fun x => ⟨fun i hi e => absurd (e ▸ hi) (h i), fun _ => rfl⟩, fun b => ⟨fun h => h.elim, fun _ => rfl⟩,
      ⟨rfl, rfl, rfl, rfl⟩, ⟨rfl, rfl⟩, fun n _ => ⟨rfl, fun _ _ => rfl⟩⟩

/-- A fold of steps that each free what its item carries. -/
theorem Frees.foldl {α : Type} (m : MoverId) (f : State → α → State) (T : α → TagNo → Prop) (B : α → BufNo → Prop)
    (l : List α) (h : ∀ a ∈ l, ∀ s, Frees m (T a) (B a) s (f s a)) (s : State) :
    Frees m (fun t => ∃ a ∈ l, T a t) (fun b => ∃ a ∈ l, B a b) s (l.foldl f s) := by
  induction l generalizing s with
  | nil => exact (Frees.refl m s).congr (by simp) (by simp)
  | cons a l ih =>
    exact ((h a (List.mem_cons_self ..) s).trans (ih (fun x hx => h x (List.mem_cons_of_mem _ hx)) (f s a))).congr
      (by simp) (by simp)

/-- The tag field of a header names tag `t`. -/
theorem tagOf_eq_some (x : Byte) (t : TagNo) : tagOf x = some t ↔ x = byteOf t.val := by
  revert x t
  decide +kernel

theorem Frees.withdrawCell (m : MoverId) (s : State) (c : RequestCell) (hc : c.mover = m) :
    Frees m (fun t => c.header.tag = byteOf t.val) (fun b => c.buffer = some b) s (s.withdrawCell c) := by
  unfold State.withdrawCell
  have h1 : Frees m (fun _ => False) (fun b => c.buffer = some b) s
      (match c.buffer with | some b => s.freeBuffer b | none => s) := by
    cases hb : c.buffer with
    | none => exact (Frees.refl m s).congr (by simp) (by simp)
    | some b => exact (Frees.freeBuffer m s b).congr (by simp) (by simp [eq_comm])
  have h2 : ∀ u : State, Frees m (fun t => c.header.tag = byteOf t.val) (fun _ => False) u
      (match tagOf c.header.tag with | some t => u.freeUnsent t | none => u) := fun u => by
    cases ht : tagOf c.header.tag with
    | none =>
      refine (Frees.refl m u).congr (fun t => ⟨False.elim, fun e => ?_⟩) (by simp)
      rw [← tagOf_eq_some, ht] at e
      cases e
    | some t =>
      refine (Frees.freeUnsent m u t).congr (fun x => ?_) (by simp)
      rw [← tagOf_eq_some, ht]
      simp [eq_comm]
  subst hc
  exact ((h1.trans (h2 _)).trans (Frees.dropPiece _ _)).congr (by simp) (by simp)

/-! ### The withdrawal -/

/-- The cells leave the Request Queue (R113). -/
theorem State.withdrawCells_frees (s : State) (m : MoverId) :
    let u := s.withdrawCells m
    Frees m (fun t => ∃ c ∈ s.requestQueue, c.mover = m ∧ c.header.tag = byteOf t.val)
      (fun b => ∃ c ∈ s.requestQueue, c.mover = m ∧ c.buffer = some b) s
      { u with requestQueue := s.requestQueue, ring := s.ring }
    ∧ u.requestQueue = s.requestQueue.filter (fun c => c.mover ≠ m)
    ∧ u.ring = { s.ring with
        passCounter := if u.requestQueue = [] ∧ u.replyQueue = [] then 0 else s.ring.passCounter } := by
  intro u
  let t : State := { s with requestQueue := s.requestQueue.filter (fun c => c.mover ≠ m) }
  let mine := s.requestQueue.filter (fun c => c.mover = m)
  have h := Frees.foldl m State.withdrawCell (fun c t => c.header.tag = byteOf t.val) (fun c b => c.buffer = some b)
    mine (fun c hc x => Frees.withdrawCell m x c (by simpa using (List.mem_filter.mp hc).2)) t
  have hu : u = (mine.foldl State.withdrawCell t).passCounterRule := rfl
  generalize mine.foldl State.withdrawCell t = w at h hu
  obtain ⟨h1, h2, ⟨h3, h4, h5, h6⟩, h7, h8⟩ := h
  have hr : u.ring = { s.ring with
      passCounter := if u.requestQueue = [] ∧ u.replyQueue = [] then 0 else s.ring.passCounter } := by
    rw [hu]
    unfold State.passCounterRule
    split <;> simp_all [t]
  have hw : u = { w with ring := u.ring } := by
    rw [hu]
    unfold State.passCounterRule
    split <;> rfl
  refine ⟨?_, by rw [hw]; exact h3, hr⟩
  rw [hw]
  refine Frees.congr (T := fun t => ∃ c ∈ mine, c.header.tag = byteOf t.val)
    (B := fun b => ∃ c ∈ mine, c.buffer = some b)
    ⟨h1, h2, ⟨rfl, h4, h5, rfl⟩, ?_, fun n hn => ?_⟩ (by simp [mine, and_assoc]) (by simp [mine, and_assoc])
  · cases m <;> exact h7
  · cases n <;> exact h8 _ hn

/-- A record of mover `m` with another memory queue, put back. -/
theorem Frees.requeue {m : MoverId} {T : TagNo → Prop} {B : BufNo → Prop} {s u : State} (q : List MemOp)
    (h : Frees m T B (s.setMover m { s.mover m with queue := q }) u) :
    Frees m T B s (u.setMover m { u.mover m with queue := (s.mover m).queue }) := by
  obtain ⟨h1, h2, ⟨h3, h4, h5, h6⟩, ⟨-, h8⟩, h9⟩ := h
  refine ⟨fun t => ?_, fun b => ?_, ⟨?_, ?_, ?_, ?_⟩, ⟨?_, ?_⟩, fun n hn => ?_⟩
  · have := h1 t; cases m <;> exact this
  · have := h2 b; cases m <;> exact this
  · cases m <;> exact h3
  · cases m <;> exact h4
  · cases m <;> exact h5
  · cases m <;> exact h6
  · cases m <;> rfl
  · cases m <;> exact h8
  · have := h9 n hn
    cases m <;> cases n <;> first | exact absurd rfl hn | exact this

/-- The memory queue that a withdrawal leaves (R38). -/
def leftQueue (q : List MemOp) : List MemOp :=
  (if ∃ o ∈ q.head?, o.waitsFilled then q.tail else q).map MemOp.withoutTag

/-- A FILLED read at the head of the memory queue is given up (R38). -/
theorem State.giveUpFilled_frees (s : State) (m : MoverId) (q : List MemOp)
    (hq : (s.mover m).queue = q.map MemOp.withoutTag) :
    let u := s.giveUpFilled m
    Frees m (fun _ => False) (fun b => ∃ o ∈ q.head?, o.stage = .filled ∧ ∃ t, o.kind = .read b t) s
      (u.setMover m { u.mover m with queue := (s.mover m).queue })
    ∧ (u.mover m).queue = leftQueue q := by
  have same : s.setMover m { s.mover m with queue := (s.mover m).queue } = s := by cases m <;> rfl
  have keep : Frees m (fun _ => False) (fun _ => False) s
      (s.setMover m { s.mover m with queue := (s.mover m).queue }) := by rw [same]; exact .refl m s
  cases q with
  | nil =>
    have : s.giveUpFilled m = s := by simp [State.giveUpFilled, hq]
    rw [this]
    exact ⟨keep.congr (by simp) (by simp), by simp [hq, leftQueue]⟩
  | cons o rest =>
    have hk : ∀ b t, o.withoutTag.kind = .read b t ↔ t = none ∧ ∃ t', o.kind = .read b t' := by
      intro b t
      unfold MemOp.withoutTag
      cases ho : o.kind <;> simp [eq_comm, ho, and_comm]
    have hs : o.withoutTag.stage = o.stage := by unfold MemOp.withoutTag; split <;> rfl
    by_cases hw : o.waitsFilled
    · obtain ⟨hf, b, t, hb⟩ := hw
      have : s.giveUpFilled m =
          ((s.setMover m { s.mover m with queue := rest.map MemOp.withoutTag }).freeBuffer b).dropPiece m := by
        simp [State.giveUpFilled, hq, (hk b none).2 ⟨rfl, t, hb⟩, hs, hf]
      rw [this]
      refine ⟨?_, ?_⟩
      · have h := ((Frees.freeBuffer m (s.setMover m { s.mover m with queue := rest.map MemOp.withoutTag }) b).trans
          (Frees.dropPiece m _)).requeue
        exact h.congr (by simp) (by simp [hf, hb, eq_comm])
      · have h := ((Frees.freeBuffer m (s.setMover m { s.mover m with queue := rest.map MemOp.withoutTag }) b).trans
          (Frees.dropPiece m _)).2.2.2.1.1
        rw [h]
        have : (o :: rest).head?.elim False MemOp.waitsFilled := ⟨hf, b, t, hb⟩
        have hx : ∃ p ∈ (o :: rest).head?, p.waitsFilled := ⟨o, rfl, hf, b, t, hb⟩
        simp only [leftQueue, if_pos hx]
        cases m <;> rfl
    · have : s.giveUpFilled m = s := by
        simp only [State.giveUpFilled, hq, List.map_cons, hs]
        split
        · next b t hb hf => exact absurd ⟨hf, b, ((hk b t).1 hb).2⟩ hw
        · rfl
      rw [this]
      have hx : ¬∃ p ∈ (o :: rest).head?, p.waitsFilled := by simpa using hw
      refine ⟨keep.congr (by simp) (fun b => ⟨False.elim, ?_⟩), by rw [hq, leftQueue, if_neg hx]⟩
      rintro ⟨p, hp, hf, t, hb⟩
      exact hx ⟨p, hp, hf, b, t, hb⟩

/-- What becomes of the memory queue (R38, R63). -/
theorem State.withdrawMemory_frees (s : State) (m : MoverId) :
    let u := s.withdrawMemory m
    Frees m (fun t => ∃ o ∈ (s.mover m).queue, ∃ b : BufNo, o.kind = .read b (some t))
      (fun b => ∃ o ∈ (s.mover m).queue.head?, o.stage = .filled ∧ ∃ t, o.kind = .read b t) s
      (u.setMover m { u.mover m with queue := (s.mover m).queue })
    ∧ (u.mover m).queue = leftQueue (s.mover m).queue := by
  let q := (s.mover m).queue
  let t := s.setMover m { s.mover m with queue := q.map MemOp.withoutTag }
  have h := Frees.foldl m State.freeUnsent (fun a t => t = a) (fun _ _ => False) (q.filterMap MemOp.heldTag)
    (fun a _ x => Frees.freeUnsent m x a) t
  have hu : s.withdrawMemory m = ((q.filterMap MemOp.heldTag).foldl State.freeUnsent t).giveUpFilled m := rfl
  generalize (q.filterMap MemOp.heldTag).foldl State.freeUnsent t = w at h hu
  have hwq : (w.mover m).queue = q.map MemOp.withoutTag := by rw [h.2.2.2.1.1]; cases m <;> rfl
  obtain ⟨g, gq⟩ := w.giveUpFilled_frees m q hwq
  rw [hu]
  refine ⟨?_, gq⟩
  have hall := (h.trans g).requeue
  refine Frees.congr (T := fun n => (∃ a ∈ q.filterMap MemOp.heldTag, n = a) ∨ False)
    (B := fun b => (∃ a ∈ q.filterMap MemOp.heldTag, False)
      ∨ ∃ o ∈ q.head?, o.stage = .filled ∧ ∃ t, o.kind = .read b t)
    ?_ ?_ ?_
  · cases m <;> exact hall
  · intro n
    have hh : ∀ o : MemOp, o.heldTag = some n ↔ ∃ b : BufNo, o.kind = .read b (some n) := fun o => by
      unfold MemOp.heldTag
      cases o.kind <;> simp
    simp [List.mem_filterMap, hh, q]
  · intro b
    simp [q]

/-- The look-ahead and the fetch, withdrawn (R14, R18). -/
theorem State.withdrawFetch_eq (s : State) (m : MoverId) :
    (s.discardLookAhead m).withdrawFetch m =
      { s.setMover m { s.mover m with lookAhead := .none } with fetcher := s.fetcher.withdraw m } := by
  have twice : (s.fetcher.withdraw m).withdraw m = s.fetcher.withdraw m := by
    obtain ⟨i, w0, w1, l⟩ := s.fetcher
    cases i with
    | none => cases m <;> rfl
    | some f => by_cases h : f.mover = m <;> cases m <;> simp [Fetcher.withdraw, Fetcher.setWaiting, h]
  unfold State.discardLookAhead
  cases m
  · cases h : s.mover0.lookAhead <;> simp [h, State.mover, State.withdrawFetch, State.setMover, twice]
  · cases h : s.mover1.lookAhead <;> simp [h, State.mover, State.withdrawFetch, State.setMover, twice]

/-- What a withdrawal of mover `m` comes to (R38, R63, R113). -/
theorem State.withdraw_withdrawn (s : State) (m : MoverId) : s.withdrawn (s.withdraw m) m := by
  obtain ⟨hA, hq, hr⟩ := s.withdrawCells_frees m
  obtain ⟨hM, hmq⟩ := (s.withdrawCells m).withdrawMemory_frees m
  have hu : s.withdraw m =
      State.withdrawFetch (((((s.withdrawCells m).withdrawMemory m).abandonTags m).discardLookAhead m)) m := rfl
  rw [State.withdrawFetch_eq] at hu
  generalize s.withdrawCells m = c at *
  generalize c.withdrawMemory m = w at *
  have hcq : (c.mover m).queue = (s.mover m).queue := by
    have := hA.2.2.2.1.1
    cases m <;> exact this
  rw [hcq] at hM hmq
  have hF : Frees m (s.unsent m) (s.givesUp m) s
      (State.setMover { w with requestQueue := s.requestQueue, ring := s.ring } m
        { w.mover m with queue := (s.mover m).queue }) := by
    obtain ⟨h1, h2, ⟨-, h4, h5, -⟩, h7, h8⟩ := hM
    refine hA.trans (t := { c with requestQueue := s.requestQueue, ring := s.ring })
      ⟨?_, ?_, ⟨?_, ?_, ?_, ?_⟩, ?_, ?_⟩
    · cases m <;> exact h1
    · cases m <;> exact h2
    · cases m <;> rfl
    · cases m <;> exact h4
    · cases m <;> exact h5
    · cases m <;> rfl
    · cases m <;> exact h7
    · intro n hn
      have := h8 n hn
      cases m <;> cases n <;> exact this
  obtain ⟨-, -, ⟨hM3, hM4, hM5, hM6⟩, -, -⟩ := hM
  obtain ⟨hF1, hF2, ⟨-, hF4, hF5, -⟩, ⟨-, hF8⟩, hF9⟩ := hF
  have tags : (s.withdraw m).tags = w.tags.map (Tag.abandon m) := by rw [hu]; cases m <;> rfl
  have wtags : ∀ t : TagNo, (s.withdraw m).tags[t] = (w.tags[t]).abandon m := fun t => by
    rw [tags]
    simp
  have rq : (s.withdraw m).requestQueue = c.requestQueue := by
    rw [hu]
    cases m <;> exact hM3
  have rpl : (s.withdraw m).replyQueue = c.replyQueue := by
    rw [hu]
    cases m <;> exact hM4
  refine ⟨rq.trans hq, fun t => ⟨fun i hi hT => ?_, fun i d hi ho hd => ?_, fun h => ?_⟩, fun b => ?_, ?_, ?_, ?_, ?_,
    fun n hn => ?_⟩
  · have : w.tags[t] = .free := by
      have := (hF1 t).1 i hi hT
      cases m <;> exact this
    rw [wtags, this]
    rfl
  · have : w.tags[t] = s.tags[t] := by
      have := (hF1 t).2 (fun j hj hT => by
        rw [hi] at hj
        obtain ⟨rfl, rfl⟩ := Tag.waiting.inj hj
        exact hd.elim (fun x => x rfl) (fun x => x hT))
      cases m <;> exact this
    rw [wtags, this, hi]
    simp [Tag.abandon, ho]
  · have : w.tags[t] = s.tags[t] := by
      have := (hF1 t).2 (fun j hj hT => (h j none hj).2.elim (fun x => x rfl) (fun x => x hT))
      cases m <;> exact this
    rw [wtags, this]
    cases ht : s.tags[t] with
    | waiting i d => simp [Tag.abandon, (h i d ht).1]
    | _ => rfl
  · have := hF2 b
    rw [hu]
    cases m <;> exact this
  · have shape : MemOp.withoutTag = fun o => { o with kind := match o.kind with
        | .read b _ => .read b none
        | .write payload => .write payload } := funext fun o => by
      unfold MemOp.withoutTag
      cases o
      split <;> simp_all
    refine Eq.trans ?_ (congrArg (fun f => List.map f (if ∃ o ∈ (s.mover m).queue.head?, o.waitsFilled then
      (s.mover m).queue.tail else (s.mover m).queue)) shape)
    rw [hu]
    cases m <;> exact hmq
  · rw [hu]
    cases m <;> rfl
  · rw [hu]
    have : w.fetcher = s.fetcher := by cases m <;> exact hF5
    cases m <;> simp [State.abandonTags, this, Fetcher.withdraw, Fetcher.setWaiting]
  · rw [rq, rpl]
    have : (s.withdraw m).ring = c.ring := by
      rw [hu]
      cases m <;> exact hM6
    rw [this, hr]
  · have := hF9 n hn
    rw [hu]
    cases m <;> cases n <;> first | exact absurd rfl hn | exact this

/-! ### A fault that a mover takes -/

/-- Up to two occurrences of different events change the Event Unit alone, and count each. -/
theorem State.takes_records (t : State) (swap : Bool) (a b : Option Event)
    (h : ∀ x ∈ a, ∀ y ∈ b, x.number ≠ y.number) :
    (∃ u k, t.takes swap a b = { t with events := u, free := k })
    ∧ ∀ n : Fin 16, (t.takes swap a b).events.records[n] =
        if (∃ x ∈ a, x.number = n) ∨ (∃ y ∈ b, y.number = n) then t.events.records[n].bump
        else t.events.records[n] := by
  have one : ∀ (t : State) (x : Event) (n : Fin 16), (t.takeOccurrence x).events.records[n] =
      if x.number = n then t.events.records[n].bump else t.events.records[n] := fun t x n => by
    rw [State.takeOccurrence_records]
    by_cases hx : x.number = n
    · subst hx; simp
    · have : x.number.val ≠ n.val := fun e => hx (Fin.ext e)
      simp [this, hx]
  have frame : ∀ (t : State) (x : Event), ∃ u k, t.takeOccurrence x = { t with events := u, free := k } :=
    fun t x => (t.takeOccurrence_frame x).imp fun _ hu => ⟨t.free, hu⟩
  cases a with
  | none =>
    cases b with
    | none => exact ⟨⟨t.events, t.free, rfl⟩, by simp [State.takes]⟩
    | some y => exact ⟨frame t y, by simp [State.takes, one]⟩
  | some x =>
    cases b with
    | none => exact ⟨frame t x, by simp [State.takes, one]⟩
    | some y =>
      have hxy := h x rfl y rfl
      obtain ⟨u, hu⟩ := State.takeTwo_frame { t with free := t.free + 1 } swap x y
      refine ⟨⟨u, t.free + 1, hu⟩, fun n => ?_⟩
      by_cases hx : x.number = n
      · have hy : y.number ≠ n := fun e => hxy (hx.trans e.symm)
        cases swap <;> simp [State.takes, State.takeTwo, one, hx, hy]
      · cases swap <;> simp [State.takes, State.takeTwo, one, hx]

theorem Event.number_ne_halted (a : Event) (m : MoverId) (h : a.mover? = none) :
    a.number ≠ (Event.moverHalted m).number := by
  cases a <;> first | cases (h : some _ = none) | (cases m <;> decide)

/-- With no fetch left to start, none is after a withdrawal. -/
theorem Fetcher.start_withdraw (f : Fetcher) (m : MoverId) (h : f.start = f) :
    (f.withdraw m).start = f.withdraw m := by
  obtain ⟨i, w0, w1, l⟩ := f
  cases i with
  | some x => cases m <;> rfl
  | none =>
    cases w0 <;> cases w1 <;> cases l <;> cases m <;>
      simp_all [Fetcher.start, Fetcher.nextMover, Fetcher.waiting, Fetcher.setWaiting, Fetcher.withdraw]

/-- What a fault comes to in a mover that finishes pieces (R36–R39). -/
theorem State.takeFault_faults (s : State) (m : MoverId) (f : FaultRecord) (e : Option Event)
    (hr : s.raised = e.toList) (he : ∀ a ∈ e, a.mover? = none) (hf : s.fetcher.start = s.fetcher)
    (hs : (s.mover m).finishing) (hn : (s.mover m).fault = none) (hz : f.further = 0) :
    s.atEnd.faults m f e (.next (s.takeFault m f).finish) := by
  let x := s.setMover m { (s.mover m).noteFault f with state := .faulting, resume := none }
  have ht : s.takeFault m f = (x.withdraw m).checkQuiet m := by
    unfold State.takeFault
    rcases hs with h | h <;> simp [h, x]
  have hx : (x.mover m).core = { (s.mover m).noteFault f with state := .faulting, resume := none }.core := by
    cases m <;> rfl
  have hq : (x.mover m).queue = (s.mover m).queue := by
    cases m <;> simp [x, State.setMover, State.mover, Mover.noteFault] <;> split <;> rfl
  have hg := GivesUp.withdraw x m
  have hw := x.withdraw_withdrawn m
  have hxf : x.fetcher = s.fetcher := by cases m <;> rfl
  rw [ht]
  have hstart : (x.withdraw m).fetcher.start = (x.withdraw m).fetcher := by
    rw [show (x.withdraw m).fetcher = x.fetcher.withdraw m by rw [hw.2.2.2.2.2.1]; cases m <;> rfl, hxf]
    exact Fetcher.start_withdraw _ _ hf
  generalize x.withdraw m = w at *
  obtain ⟨frame, core⟩ := hg
  have hc := (core m).trans hx
  have hfault : (w.mover m).fault = some f := by
    have := congrArg (fun c => c.2.2.2.2.2.1) hc
    simp only [Mover.core, Mover.noteFault, hn] at this
    rw [this, ← hz]
  have hstate : (w.mover m).state = .faulting := congrArg (fun c => c.1) hc
  have hraised : w.raised = e.toList := by
    obtain ⟨_, _, _, _, _, _, _, rfl⟩ := frame
    cases m <;> exact hr
  have hrecords : w.events = s.events := by
    obtain ⟨_, _, _, _, _, _, _, rfl⟩ := frame
    cases m <;> rfl
  have rel := w.checkQuiet_released m e hraised he
  have hwm : w.atEnd.mover m = w.mover m := by cases m <;> rfl
  -- whatever record the mover ends with, as long as it keeps what a withdrawal speaks of
  have key : ∀ (r : Mover) (ev : EventUnit) (k : Nat), r.queue = (w.mover m).queue →
      r.lookAhead = (w.mover m).lookAhead → r.pendingWrites = (w.mover m).pendingWrites →
      let u := { w.atEnd.setMover m r with events := ev, free := k }
      s.atEnd.actsOnMovers u ∧ u.mgmt = s.mgmt ∧ s.atEnd.withdrawn u m ∧ u.mover m = r
        ∧ (u.isQuiet m ↔ w.atEnd.isQuiet m) := by
    intro r ev k h1 h2 h3
    refine ⟨?_, ?_, ?_, ?_, ?_⟩
    · obtain ⟨_, _, _, _, _, _, _, rfl⟩ := frame
      cases m <;> rfl
    · obtain ⟨_, _, _, _, _, _, _, rfl⟩ := frame
      cases m <;> rfl
    · unfold State.withdrawn State.unsent State.givesUp at hw ⊢
      have e1 : s.atEnd.fetcher = s.fetcher := hf
      have e2 : s.atEnd.mover m = s.mover m := by cases m <;> rfl
      have e3 : (w.atEnd.setMover m r).mover m = r := by cases m <;> rfl
      rw [hq, hxf] at hw
      obtain ⟨w1, w2, w3, w4, w5, w6, w7, w8⟩ := hw
      rw [e1, e2]
      refine ⟨?_, ?_, ?_, ?_, ?_, ?_, ?_, fun n hnm => ?_⟩
      · cases m <;> exact w1
      · cases m <;> exact w2
      · cases m <;> exact w3
      · exact ((congrArg Mover.queue e3).trans h1).trans w4
      · exact ((congrArg Mover.lookAhead e3).trans h2).trans w5
      · exact (show _ = w.fetcher.start by cases m <;> rfl).trans (hstart.trans w6)
      · cases m <;> exact w7
      · have := w8 n hnm
        cases m <;> cases n <;> first | exact absurd rfl hnm | exact this
    · cases m <;> rfl
    · cases m <;> simp_all [State.isQuiet, State.setMover, State.mover]
  have numbers : ∀ a ∈ e, ∀ y ∈ some (Event.moverHalted m), a.number ≠ y.number := by
    intro a ha y hy
    cases hy
    exact a.number_ne_halted m (he a ha)
  have done : ∀ (r : Mover) (swap : Bool) (b : Option Event), r.queue = (w.mover m).queue →
      r.lookAhead = (w.mover m).lookAhead → r.pendingWrites = (w.mover m).pendingWrites → r.fault = some f →
      (∀ a ∈ e, ∀ y ∈ b, a.number ≠ y.number) →
      (w.atEnd.isQuiet m → r.state = .halted ∧ r.resume = none) → (¬w.atEnd.isQuiet m → r.state = .faulting) →
      (∀ n : Fin 16, (∃ y ∈ b, y.number = n) ↔ w.atEnd.isQuiet m ∧ n = (Event.moverHalted m).number) →
      s.atEnd.faults m f e (.next ((w.atEnd.setMover m r).takes swap e b)) := by
    intro r swap b h1 h2 h3 h4 h5 h6 h7 h8
    obtain ⟨⟨ev, k, hu⟩, records⟩ := (w.atEnd.setMover m r).takes_records swap e b h5
    rw [hu] at records ⊢
    obtain ⟨a1, a2, a3, a4, a5⟩ := key r ev k h1 h2 h3
    refine ⟨_, rfl, a1, a2, a3, (congrArg _ a4).trans h4,
      fun h => ⟨(congrArg _ a4).trans (h6 (a5.mp h)).1, (congrArg _ a4).trans (h6 (a5.mp h)).2⟩,
      fun h => (congrArg _ a4).trans (h7 (fun g => h (a5.mpr g))),
      fun n => ?_⟩
    have hev : (w.atEnd.setMover m r).events = s.events := by rw [← hrecords]; cases m <;> rfl
    rw [records n, hev]
    simp only [h8, a5]
    rfl
  by_cases quiet : w.atEnd.isQuiet m
  · obtain ⟨swap, hu⟩ := rel.1 (by rw [hwm]; exact hstate) quiet
    rw [hu]
    refine done _ swap _ (by rw [hwm]) (by rw [hwm]) (by rw [hwm]) (by rw [hwm]; exact hfault) numbers
      (fun _ => ⟨rfl, rfl⟩) (fun h => absurd quiet h) (fun n => ?_)
    exact ⟨fun ⟨y, hy, h⟩ => ⟨quiet, by cases hy; exact h.symm⟩, fun h => ⟨_, rfl, h.2.symm⟩⟩
  · obtain ⟨swap, hu⟩ := rel.2.2 quiet
    have same : w.atEnd = w.atEnd.setMover m (w.mover m) := by cases m <;> rfl
    rw [hu, same]
    refine done _ swap none rfl rfl rfl hfault (by simp) (fun h => absurd h quiet) (fun _ => hstate) (fun n => ?_)
    exact ⟨fun ⟨_, hy, _⟩ => (by cases hy), fun h => absurd h.1 quiet⟩

end Sys2Proof.Machine
end

