-- ==== Sys2Proof/WellFormed.lean ====
section
/-! DEFINITION. Which commands can be given at all. The operand types bound the slot, the tag and the
mover; the check below bounds the bytes of a bus answer. -/

namespace Sys2Proof

/-- A card memory operation has at most 64 bytes, so no answer delivers more (R125, R126). -/
def BusAnswer.wf : BusAnswer → Bool
  | .done bytes => bytes.length ≤ 64
  | .error => true

/-- Well-formedness of a command, on its operands alone. -/
def Instr.wf : Instr → Bool
  | .memoryAnswer _ a => a.wf
  | .hardReset _ | .linkUp | .linkDown | .cellReceived _ _ | .ringOutChoice _ | .cellFinished _ => true
  | .dispatchCell | .dispatcherNakPlaced | .responderBufferTaken | .inboundAdmission => true
  | .moverQueueWritePlaced | .imqReplyPlaced | .memoryGrant | .memoryTimeout => true
  | .pushPieceIssue _ | .trackedPieceIssue _ | .pullPieceIssue _ | .pushWritePlaced _ => true
  | .tagDeadlineExpiry _ | .tagQuarantineEnd _ | .claimLapse | .mgmtReplyPlaced _ => true
  | .attentionRepeat | .attnPlaced | .claim | .release | .readStatus | .readEvents => true
  | .setParams | .windowOpen | .windowClose | .windowQuery | .moverStart | .moverStop => true
  | .moverResume | .moverAbort | .moverClear | .moverQuery | .nodeReset | .unknownCommand => true

end Sys2Proof
end

