-- ==== Sys2Proof/Tests/Slice0.lean ====
section
/-! SUPPORT. Tests: the figures of the spec's examples, single steps, and a state for every hypothesis of
the obligations. -/

namespace Sys2Proof.Tests

set_option synthInstance.maxSize 100000
set_option synthInstance.maxHeartbeats 200000
-- Theorems by the kernel, one at a time: elaborated at once, each would hold a thread while it waits for the kernel.
set_option Elab.async false

open Sys2Proof Sys2Proof.Machine

/-! ### Small states -/

/-- A header for the own slot 0, with 5 hops left. -/
def head (source kind origin tag length flags : Byte) (a : Addr) (seq : Byte := 0) : Header :=
  { dest := 0, source := source, kind := kind, origin := origin, tag := tag, hops := 5
    length := length, flags := flags, ringAddr := a, seq := seq, status := 0 }

/-- A received cell with a good payload. -/
def cell (h : Header) (payload : List Byte := []) : RxCell :=
  { header := h, payload := payload, good := true }

/-- Ring-in is UP. -/
def up : State := { State.reset with ring := { State.reset.ring with link := .up } }

/-- One cell in the Receive Queue, with the Dispatcher's wait. -/
def withCell (s : State) (c : RxCell) (w : Option Wait := none) : State :=
  { s with inbound := { queue := [c], hand := w } }

/-- An MGMT cell of slot 3. -/
def mgmtCell (payload : List Byte) : RxCell :=
  cell (head 3 6 7 0xFF (byteOf payload.length) 0 0 9) payload

/-- A command of the manager, slot 3, in the Dispatcher's hand. -/
def offer (s : State) (payload : List Byte) (g : Mgmt := { Mgmt.reset with claim := .claimed 3 }) : State :=
  withCell { s with mgmt := g } (mgmtCell payload) (some .management)

def xfer100 : Xfer := { slot := 3, byteCount := 100, localAddr := 0x8004, remoteAddr := 0x1030 }

def elem (op : ElemOp) (next : Option Addr := none) (notify : Bool := false) : Element :=
  { addr := 0x2000, op := op, next := next, stopAfter := false, notify := notify }

/-- A mover in `st` with a current element. -/
def at_ (st : MoverState) (cur : Current) : Mover := { Mover.reset with state := st, current := cur }

/-- Mover 0 carries out a PUSH of 100 bytes. -/
def moving (op : ElemOp := .push xfer100 false) : Mover :=
  { at_ .moving (.element (elem op)) with nextPiece := some 1 }

/-- A tag's fields: a READ of mover 0. -/
def readInfo : TagInfo :=
  { origin := .m0, type := .read 0x8004, slot := 3, ringAddr := 0x1030, length := 16, elemAddr := 0x2000 }

def ackInfo : TagInfo := { readInfo with type := .ackedWrite }

/-- Tag 15 holds `t`, and mover 0 is `v`. -/
def withTag (s : State) (t : Tag) (v : Mover := moving) : State :=
  { s with tags := s.tags.set 15 t, mover0 := v }

/-- An ordinary reply cell. -/
def ackCell : ReplyCell :=
  { producer := .dispatcher, header := head 3 4 0 0xFF 0 0 0, payload := .none, isReset := false }

/-- A queued WRITE cell of mover 0, untracked, of 16 bytes. -/
def writeCell : RequestCell :=
  { kind := .write, mover := .m0, header := head 0 1 0 0xFF 16 0 0x1030, buffer := some 5 }

def readCell : RequestCell := { kind := .read, mover := .m0, header := head 0 2 0 15 16 0 0x1030, buffer := none }

/-- Ring-out is sending a cell. -/
def sending (s : State) (src : RingSource) (before : Bool := false) : State :=
  { s with ring := { s.ring with out := some { source := src, frame := [], beforeReset := before } } }

/-- Buffer `b` is held so. -/
def withBuffer (s : State) (b : BufNo) (h : Holder) (st : BufStage) : State :=
  { s with pool := s.pool.set b (.held h st) }

/-- Window 15: 4 KiB at 80000000h onto 2000h, for slot 5, READ and WRITE. -/
def window15 : Window :=
  { state := .opened, ringBase := 0x80000000, sizeExp := 0, cardBase := 0x2000, canRead := true
    canWrite := true, mask := 0x20, inFlight := 0, accepted := 0, refused := 0 }

def withWindow (s : State) (w : Window := window15) : State := { s with windows := s.windows.set 15 w }

/-- A request of slot 5. -/
def request (kind : Byte) (a : Addr := 0x80000FC0) (length : Byte := 64) : RxCell :=
  cell (head 5 kind 0 3 length 1 a)

/-- An operation of the Inbound Memory Queue. -/
def inOp (kind : InboundKind) (stage : InboundStage) : InboundOp :=
  { kind := kind, window := 15, cardAddr := 0x2FC0, length := 2, requester := 5, origin := 0, tag := 3
    ringAddr := 0x80000FC0, stage := stage }

def fullInbound (s : State) : State :=
  { s with imq := inOp (.write [1, 2] true) .atPort :: List.replicate 3 (inOp (.write [1, 2] true) .queued) }

/-- An operation in flight on the card memory bus, marked 7. -/
def onBus (s : State) (r : Option Requester) (dir : PortDir) (n : Nat) : State :=
  { s with port :=
    { inFlight := some
        { requester := r, dir := dir, cardAddr := 0x2FC0, length := n, timeoutEnd := 4, serial := 7 }
      lastServed := .fetch, nextSerial := 8 } }

/-- A fetch of mover `m` in flight. -/
def fetching (s : State) (m : MoverId) (a : Addr := 0x2000) : State :=
  { s with fetcher := { s.fetcher with inFlight := some { mover := m, addr := a, discarded := false } } }

def moverRead : MemOp :=
  { kind := .read 5 none, cardAddr := 0x8004, length := 2, remote := 0x1030, stage := .atPort }

def moverWrite : MemOp :=
  { kind := .write [1, 2], cardAddr := 0x8004, length := 2, remote := 0x1030, stage := .atPort }

def fullReplies (s : State) : State := { s with replyQueue := List.replicate 8 ackCell }

def fullRequests (s : State) : State := { s with requestQueue := List.replicate 8 readCell }

/-- 24 bytes of an element in card memory, with a good check. -/
def elemBytes (op flags slot : Byte) (count : Nat) (localAddr next : Addr) : List Byte :=
  let b := [op, flags, slot, 0] ++ le32 (BitVec.ofNat 32 count) ++ le32 localAddr ++ le32 0x1030 ++ le32 next
  b ++ le16 (checkCode b) ++ [0, 0]

/-- The pending record of an event. -/
def pendingEvent (s : State) (e : Event) : State :=
  { s with events := { s.events with records := s.events.records.set e.number ⟨true, 1⟩ } }

/-- The deferred abort of mover 0. -/
def aborting : Deferred := ⟨.moverAbort .m0, 9, 3, 7, 0xFF⟩

/-- The part while mover 0, in `st`, drains; an abort is the deferred command. -/
def drainingAs (v : Mover) (s : State := up) : State :=
  { s with mover0 := v, mgmt := { Mgmt.reset with deferred := some aborting } }

/-- Mover 0 drains, with nothing of its own but `n` memory operations. -/
def drained (st : MoverState) (n : List MemOp := []) : Mover :=
  { at_ st (.element (elem (.push xfer100 false))) with queue := n }

/-! ### Well-formedness -/

/-- 65 bytes of a bus answer are one too many; 64 are not. -/
theorem test_wf_refuses_long_answer :
    Instr.wf (.memoryAnswer 0 (.done (List.replicate 65 0))) = false
      ∧ Instr.wf (.memoryAnswer 0 (.done (List.replicate 64 0))) = true := by decide

/-! ### The spec's figures -/

/-- The check codes of section 8.1. -/
theorem test_check_code :
    checkCode [0x31, 0x32, 0x33, 0x34, 0x35, 0x36, 0x37, 0x38, 0x39] = 0x29B1
      ∧ checkCode [0x00] = 0xE1F0 ∧ le16 0x29B1 = [0xB1, 0x29] := by decide +kernel

/-- The splits of section 1.4. -/
theorem test_pieces :
    (List.range 3).map (fun n => xfer100.piece (n + 1)) =
        [⟨1, 0x1030, 0x8004, 16, false⟩, ⟨2, 0x1040, 0x8014, 64, false⟩, ⟨3, 0x1080, 0x8054, 20, true⟩]
      ∧ (List.range 2).map (fun n => Xfer.piece ⟨3, 48, 0x400, 0xFFFFFFF0⟩ (n + 1)) =
        [⟨1, 0xFFFFFFF0, 0x400, 16, false⟩, ⟨2, 0, 0x410, 32, true⟩]
      ∧ Xfer.pieceCount ⟨3, 64, 0x400, 0x2000⟩ = 1 ∧ Xfer.pieceCount ⟨3, 64, 0x400, 0x2001⟩ = 2 := by
  decide +kernel

/-- The two windows of section 4.2. -/
def lookupState : State :=
  { State.reset with windows :=
    (State.reset.windows.set 3
      { Window.reset with
        state := .opened, ringBase := 0x40000, sizeExp := 2, cardBase := 0x1200000, canWrite := true
        mask := 0x24 }).set 7 window15 }

/-- The seven lookups of section 4.2. -/
theorem test_lookups :
    lookupState.lookup 2 true 0x40010 64 = .accepted 3 0x1200010
      ∧ lookupState.lookup 5 false 0x40000 32 = .refused .denied (some 3)
      ∧ lookupState.lookup 9 true 0x80000100 16 = .refused .denied (some 7)
      ∧ lookupState.lookup 5 true 0x43FF0 32 = .refused .range (some 3)
      ∧ lookupState.lookup 5 false 0x80000FC0 64 = .accepted 7 0x2FC0
      ∧ lookupState.lookup 5 false 0x90000000 8 = .refused .noWindow none
      ∧ lookupState.lookup 5 false 0x80000000 65 = .refused .format none := by decide +kernel

/-- The arbiter's order of section 7.2: after MOVER0, MOVER1 comes before INBOUND and FETCH. -/
theorem test_arbiter :
    State.nextGrant
      { fetching up .m0 with
        imq := [inOp (.write [1] true) .atPort]
        mover1 := { moving with queue := [{ moverRead with stage := .queued }] }
        port := { inFlight := none, lastServed := .mover .m0, nextSerial := 0 } } = some (.mover .m1) := by
  decide +kernel

/-- An element's 24 bytes, and what their validation gives (R7). -/
theorem test_element :
    validateElement 0 0x2000 (elemBytes 1 0x09 3 100 0x8004 0x2018) =
        .valid (elem (.push xfer100 true) (some 0x2018))
      ∧ validateElement 0 0x2000 (elemBytes 1 0 0 100 0x8004 0) = .failed .elementFormat
      ∧ validateElement 0 0x2000 (elemBytes 4 0 3 100 0x8004 0) = .failed .elementFormat
      ∧ validateElement 0 0x2000 [] = .failed .elementCheck := by decide +kernel

/-! ### Single steps -/

/-- On an empty queue one microsecond passes (log 2). -/
theorem test_idle_step : step up = .next { up with now := 1 } := rfl

/-- A command at the front of the queue runs. -/
theorem test_step : step { up with pending := [.linkUp] } = exec .linkUp up := rfl

/-- A whole cell while ring-in is UP and shows not ready is the one fault (log 8). -/
theorem test_overrun :
    exec (.cellReceived [] false) { up with ring := { up.ring with transit := [[], [], [], []] } }
      = .fault .ringInOverrun := rfl

/-- No word spells a command (log 25). -/
theorem test_no_words (nbits w : Nat) :
    decodeTableWord nbits w = none ∧ State.reset.withFetchWord nbits w = State.reset := ⟨rfl, rfl⟩

/-! ### A state for every hypothesis of the obligations

`met_X` gives, for each clause of obligation X, a state and operands that meet all its hypotheses. -/

theorem met_HardResetState :
    ∀ p bs, (onBus up (some .inbound) (.write [1, 2]) 2).port.inFlight = some p → p.dir = .write bs →
      ¬(p.cardAddr.toNat ≤ 0x2FC2 ∧ 0x2FC2 < p.cardAddr.toNat + bs.length) := by
  intro p bs hp hd
  obtain rfl : _ = p := Option.some.inj hp
  obtain rfl : _ = bs := PortDir.write.inj hd
  decide

/-- A manager is present. -/
def claimedUp : State := { up with mgmt := { Mgmt.reset with claim := .claimed 3 } }

theorem met_AttentionIsRaised :
    (claimedUp.events.state = .idle ∧ claimedUp.mgmt.claim.manager = some 3
      ∧ (claimedUp.takeOccurrence .claimChange).events.records[15].pending = true
      ∧ claimedUp.mgmt.params.eventMask.getLsbD 15 = true)
    ∧ up.mgmt.claim = .unclaimed := by decide +kernel

theorem met_LinkChanges :
    (State.reset.between ∧ State.reset.ring.link = .down) ∧ up.between ∧ up.ring.link = .up := by
  decide +kernel

/-- A frame with a good header check. -/
def frame (d s k hops : Byte) (tag : Byte := 0xFF) (flags : Byte := 0) : List Byte :=
  cellFrame { head s k 0 tag 0 flags 0 with dest := d, hops := hops } []

def fullTransit : State := { up with ring := { up.ring with transit := [[], [], [], []] } }

def fullReceive : State := { up with inbound := { queue := List.replicate 8 (request 1), hand := none } }

theorem met_CellDisposition :
    (fullTransit.between ∧ fullTransit.ring.link = .up ∧ 4 ≤ fullTransit.ring.transit.length)
    ∧ (fullReceive.between ∧ fullReceive.ring.link = .up ∧ 8 ≤ fullReceive.inbound.queue.length)
    ∧ (up.between ∧ up.ring.link = .up ∧ up.ring.transit.length < 4 ∧ up.inbound.queue.length < 8
      ∧ slotByte up.ring.ownSlot = 0)
    ∧ damaged [] false = true
    ∧ (damaged (frame 0 3 4 0) false = false ∧ (Header.ofBytes (frame 0 3 4 0)).dest = 0)
    ∧ (damaged (frame 3 0 6 0) false = false ∧ (Header.ofBytes (frame 3 0 6 0)).dest ≠ 0
      ∧ (Header.ofBytes (frame 3 0 6 0)).source = 0 ∧ (Header.ofBytes (frame 3 0 6 0)).kind ≠ 1
      ∧ (Header.ofBytes (frame 3 0 6 0)).kind ≠ 2)
    ∧ (damaged (frame 3 5 1 0) false = false ∧ (Header.ofBytes (frame 3 5 1 0)).dest ≠ 0
      ∧ (Header.ofBytes (frame 3 5 1 0)).source ≠ 0 ∧ (Header.ofBytes (frame 3 5 1 0)).hops = 0)
    ∧ (damaged (frame 3 5 1 1) false = false ∧ (Header.ofBytes (frame 3 5 1 1)).dest ≠ 0
      ∧ (Header.ofBytes (frame 3 5 1 1)).source ≠ 0 ∧ (Header.ofBytes (frame 3 5 1 1)).hops ≠ 0) := by
  decide +kernel

/-- A READ, or a WRITE with ACK_REQ, of tag 15 to slot 3 that came back. -/
def backRead : List Byte := frame 3 0 2 0 15
def backWrite : List Byte := frame 3 0 1 0 15 1
def backUntracked : List Byte := frame 3 0 1 0

theorem met_OrphanNotice :
    let came := fun (s : State) (f : List Byte) =>
      s.between ∧ s.ring.link = .up ∧ s.ring.transit.length < 4 ∧ s.inbound.queue.length < 8
        ∧ damaged f false = false ∧ (Header.ofBytes f).dest ≠ slotByte s.ring.ownSlot
        ∧ (Header.ofBytes f).source = slotByte s.ring.ownSlot
    let ok := fun (s : State) (f : List Byte) (i : TagInfo) =>
      came s f ∧ (Header.ofBytes f).tag = byteOf 15
        ∧ (Header.ofBytes f).dest = slotByte i.slot ∧ (Header.ofBytes f).origin = moverByte i.origin
    (ok (withTag up (.quarantined readInfo 9)) backRead readInfo
        ∧ (Header.ofBytes backRead).kind = 2 ∧ readInfo.type = .read 0x8004
        ∧ (withTag up (.quarantined readInfo 9)).tags[15] = .quarantined readInfo 9)
      ∧ (ok (withTag up (.waiting ackInfo (some 9))) backWrite ackInfo
        ∧ (Header.ofBytes backWrite).kind = 1 ∧ (Header.ofBytes backWrite).flags.getLsbD 0 = true
        ∧ ackInfo.type = .ackedWrite
        ∧ (withTag up (.waiting ackInfo (some 9))).tags[15] = .waiting ackInfo (some 9)
        ∧ ((withTag up (.waiting ackInfo (some 9))).mover .m0).fault = none
        ∧ ((withTag up (.waiting ackInfo (some 9))).mover .m0).finishing)
      ∧ (ok (withTag up (.abandoned readInfo (some 9)) (drained .faulting)) backRead readInfo
        ∧ (drainingAs (drained .faulting)).isQuiet .m0 ∧ (drainingAs (drained .aborting)).isQuiet .m0
        ∧ (drainingAs (drained .aborting)).mgmt.deferred = some aborting
        ∧ ¬(drainingAs (drained .faulting [moverRead])).isQuiet .m0)
      ∧ (came up (frame 3 0 2 0 0x10) ∧ (Header.ofBytes (frame 3 0 2 0 0x10)).kind = 2
        ∧ ∀ t : TagNo, (Header.ofBytes (frame 3 0 2 0 0x10)).tag ≠ byteOf t.val)
      ∧ (came up backUntracked ∧ (Header.ofBytes backUntracked).kind = 1
        ∧ (Header.ofBytes backUntracked).flags.getLsbD 0 = false
        ∧ (Header.ofBytes backUntracked).origin = moverByte .m0
        ∧ moving.finishing ∧ (drained .aborting).drains ∧ ¬(up.mover .m0).finishing
        ∧ ¬(up.mover .m0).drains) := by decide +kernel

/-- One transit cell, and the pass counter. -/
def transit (s : State) (n : Nat) : State :=
  { s with ring := { s.ring with transit := [[1]], passCounter := n } }

def oneReply : State := { up with replyQueue := [ackCell] }

def dataCell : ReplyCell := { ackCell with payload := .buffer 7 }

def oneData : State :=
  withBuffer { up with replyQueue := [dataCell] } 7 .responder (.queued [1] ackCell.header)

def oneRead : State := { up with requestQueue := [readCell] }

def oneWrite : State :=
  withBuffer { up with requestQueue := [writeCell] } 5 (.mover .m0) (.queued [1] writeCell.header)

theorem met_RingOutChoice :
    ((transit up 0).ring.out = none ∧ (transit up 0).ring.transit = [[1]]
      ∧ (transit up 0).replyQueue = [] ∧ (transit up 0).requestQueue = [])
    ∧ ((transit oneReply 3).ring.out = none
      ∧ (transit oneReply 3).ring.passCounter < (transit oneReply 3).mgmt.params.passCount)
    ∧ ((transit oneReply 4).replyQueue = [ackCell] ∧ ackCell.payload = .none
      ∧ ¬(transit oneReply 4).ring.passCounter < (transit oneReply 4).mgmt.params.passCount)
    ∧ (oneData.ring.out = none ∧ oneData.replyQueue = [dataCell] ∧ oneData.ring.transit = []
      ∧ dataCell.payload = .buffer 7
      ∧ oneData.pool[7] = .held .responder (.queued [1] ackCell.header))
    ∧ (oneRead.ring.out = none ∧ oneRead.replyQueue = [] ∧ oneRead.requestQueue = [readCell]
      ∧ oneRead.ring.transit = [] ∧ readCell.buffer = none)
    ∧ (oneWrite.ring.out = none ∧ oneWrite.replyQueue = [] ∧ oneWrite.requestQueue = [writeCell]
      ∧ oneWrite.ring.transit = [] ∧ writeCell.buffer = some 5
      ∧ oneWrite.pool[5] = .held (.mover .m0) (.queued [1] writeCell.header))
    ∧ (up.ring.out = none ∧ up.replyQueue = [] ∧ up.requestQueue = [] ∧ up.ring.transit = [])
    ∧ (sending (transit up 0) .transit).ring.out = some ⟨.transit, [], false⟩ := by
  decide +kernel

def sendingData : State :=
  withBuffer (sending up (.reply dataCell)) 7 .responder (.sending [1] ackCell.header)

theorem met_FinishWithoutReport :
    ((sending up .transit).between ∧ (sending up .transit).ring.out = some ⟨.transit, [], false⟩)
    ∧ ((sending up (.reply ackCell) true).between
      ∧ (sending up (.reply ackCell) true).ring.out = some ⟨.reply ackCell, [], true⟩)
    ∧ ((sending up (.reply ackCell)).ring.out = some ⟨.reply ackCell, [], false⟩
      ∧ ackCell.isReset = false ∧ ∀ b, ackCell.payload ≠ .buffer b)
    ∧ (sendingData.between ∧ sendingData.ring.out = some ⟨.reply dataCell, [], false⟩
      ∧ dataCell.isReset = false ∧ dataCell.payload = .buffer 7
      ∧ sendingData.pool[7] = .held .responder (.sending [1] ackCell.header)) := by decide +kernel

/-- A WRITE of mover 0 on ring-out, with its buffer in SENDING. -/
def writing (c : RequestCell) (v : Mover) : State :=
  { withBuffer (sending up (.request c)) 5 (.mover .m0) (.sending [1] c.header) with mover0 := v }

def pushLast : Element := elem (.push xfer100 false) none true

def pushLinked : Element := elem (.push xfer100 false) (some 0x2018) true

/-- Mover 0 carries out `e`, with `n` bytes settled. -/
def settled (e : Element) (n : Nat) (la : LookAhead := .none) (st : MoverState := .moving) : Mover :=
  { at_ st (.element e) with settled := n, piecesInFlight := 1, buffersHeld := 1, lookAhead := la }

theorem met_FinishedUntrackedWrite :
    let ok := fun (v : Mover) (e : Element) => let s := writing writeCell v
      s.between ∧ s.ring.out = some ⟨.request writeCell, [], false⟩ ∧ writeCell.buffer = some 5
        ∧ writeCell.header.tag = 0xFF ∧ s.pool[5] = .held (.mover .m0) (.sending [1] writeCell.header)
        ∧ (s.mover .m0).current = .element e ∧ e.xfer = some xfer100
    let n := fun (v : Mover) => v.settled + writeCell.header.length.toNat
    (ok (settled pushLast 83) pushLast ∧ n (settled pushLast 83) ≠ 100)
    ∧ (ok (settled pushLast 84) pushLast ∧ n (settled pushLast 84) = xfer100.byteCount
      ∧ pushLast.next = none)
    ∧ (ok (settled pushLinked 84 .none (.stopping .element)) pushLinked
      ∧ (writing writeCell (settled pushLinked 84)).fetcher.owns .m0 = false)
    ∧ ok (settled pushLinked 84 .pending) pushLinked
    ∧ ok (settled pushLinked 84 (.held pushLast)) pushLinked
    ∧ ok (settled pushLinked 84 (.failed .elementCheck 0x2018)) pushLinked
    ∧ (ok (settled pushLinked 84 (.held pushLinked)) pushLinked ∧ pushLinked.op ≠ .gate)
    ∧ ok (settled pushLinked 84 (.held (elem .gate))) pushLinked
    ∧ Fetcher.owns (State.fetcher (fetching (writing writeCell
        (settled pushLinked 84 .none (.stopping .element))) .m0)) .m0 = true
    ∧ (ok (settled pushLast 84 .none .faulting) pushLast
      ∧ (settled pushLast 84 .none .aborting).drains)
    ∧ (pushLinked.stopAfter = false ∧ pushLinked.next = some 0x2018 ∧ pushLast.op ≠ .gate
      ∧ (settled pushLinked 84).fault = none) := by decide +kernel

/-- A tracked WRITE of mover 0, with tag 15. -/
def trackedCell : RequestCell := { writeCell with header := { writeCell.header with tag := 15, flags := 1 } }

def sendingRead : State := withTag (sending up (.request readCell)) (.waiting readInfo none)

def sendingTracked (t : Tag := .waiting ackInfo none) (v : Mover := moving) : State :=
  withTag (writing trackedCell v) t v

theorem met_FinishStartsDeadline :
    let free := fun x : Tag => ∀ i, x ≠ .waiting i none ∧ x ≠ .abandoned i none
    let ok := fun (s : State) (c : RequestCell) (x : Tag) =>
      s.between ∧ s.ring.out = some ⟨.request c, [], false⟩ ∧ c.header.tag = byteOf 15 ∧ s.tags[15] = x
    let held := fun s : State => s.pool[5] = .held (.mover .m0) (.sending [1] trackedCell.header)
    (ok sendingRead readCell (.waiting readInfo none) ∧ readCell.buffer = none)
    ∧ (ok sendingTracked trackedCell (.waiting ackInfo none) ∧ trackedCell.buffer = some 5
      ∧ held sendingTracked ∧ ¬(sendingTracked.mover .m0).drains)
    ∧ ok (withTag sendingRead (.abandoned readInfo none) (drained .aborting)) readCell (.abandoned readInfo none)
    ∧ (let s := sendingTracked (.abandoned ackInfo none) (drained .faulting)
       ok s trackedCell (.abandoned ackInfo none) ∧ held s ∧ ackInfo.origin = .m0 ∧ (s.mover .m0).drains)
    ∧ (free .free ∧ ok (withTag sendingRead .free) readCell .free)
    ∧ (free (.waiting ackInfo (some 9)) ∧ ok (sendingTracked .free) trackedCell .free
      ∧ ok (sendingTracked .free (drained .faulting)) trackedCell .free
      ∧ held (sendingTracked .free (drained .faulting))) := by
  refine ⟨?_, ?_, ?_, ?_, ⟨by simp, ?_⟩, by simp, ?_⟩ <;> decide +kernel

def resetReply : ReplyCell := { ackCell with isReset := true }

/-- The reset reply is on ring-out. -/
def atResetPoint (s : State) : State := sending s (.reply resetReply)

def queuedReply : ReplyCell := { ackCell with payload := .bytes [7, 0] }

theorem met_ResetPoint :
    let ok := fun s : State => s.ring.out = some ⟨.reply resetReply, [], false⟩
    let pass := fun s : State => s.ring.passCounter < s.mgmt.params.passCount
    let bytes : State := { up with replyQueue := [queuedReply] }
    (ok (atResetPoint up) ∧ resetReply.isReset = true)
    ∧ (ok (atResetPoint (transit up 2)) ∧ (atResetPoint (transit up 2)).ring.transit = [[1]]
      ∧ (atResetPoint (transit up 2)).replyQueue = [] ∧ (atResetPoint (transit up 2)).requestQueue = [])
    ∧ (ok (atResetPoint (transit oneReply 3)) ∧ pass (atResetPoint (transit oneReply 3)))
    ∧ (ok (atResetPoint (transit oneReply 4)) ∧ ¬pass (atResetPoint (transit oneReply 4))
      ∧ (atResetPoint (transit oneReply 4)).replyQueue = [ackCell] ∧ ackCell.payload = .none)
    ∧ (ok (atResetPoint bytes) ∧ (atResetPoint bytes).replyQueue = [queuedReply]
      ∧ queuedReply.payload = .bytes [7, 0] ∧ (atResetPoint bytes).ring.transit = [])
    ∧ (ok (atResetPoint oneData) ∧ (atResetPoint oneData).replyQueue = [dataCell]
      ∧ dataCell.payload = .buffer 7
      ∧ (atResetPoint oneData).pool[7] = .held .responder (.queued [1] ackCell.header))
    ∧ (ok (atResetPoint oneRead) ∧ (atResetPoint oneRead).replyQueue = []
      ∧ (atResetPoint oneRead).requestQueue = [readCell] ∧ readCell.buffer = none)
    ∧ (ok (atResetPoint oneWrite) ∧ (atResetPoint oneWrite).replyQueue = []
      ∧ (atResetPoint oneWrite).requestQueue = [writeCell] ∧ writeCell.buffer = some 5
      ∧ (atResetPoint oneWrite).pool[5] = .held (.mover .m0) (.queued [1] writeCell.header)) := by
  decide +kernel

theorem met_LookupOrder :
    let w := (withWindow up).windows[15]
    let inside := fun (a : Addr) => w.state = .opened ∧ w.ringBase.toNat ≤ a.toNat
      ∧ a.toNat < w.ringBase.toNat + 4096 * 2 ^ w.sizeExp
    (¬inside 0x7FFFFFFF ∧ ¬inside 0x80001000 ∧ inside 0x80000000 ∧ inside 0x80000FFF)
    ∧ (∀ i : WindowNo, (withWindow up).windows[i].state = .opened → i = 15)
    ∧ (w.mask.getLsbD 4 = false ∧ w.mask.getLsbD 5 = true ∧ w.canWrite = true)
    ∧ (¬0x80000FC1 + 64 ≤ w.ringBase.toNat + 4096 * 2 ^ w.sizeExp)
    ∧ 0x80000FC0 + 64 ≤ w.ringBase.toNat + 4096 * 2 ^ w.sizeExp := by decide +kernel

theorem met_RequestAdmitted :
    let ok := fun (s : State) (k : Byte) (w : Option Wait) => let t := withCell s (request k) w
      t.between ∧ t.inboundStaged
        ∧ t.lookup (request k).header.source (k = 1) (request k).header.ringAddr
            (request k).header.length.toNat = .accepted 15 0x2FC0
    (ok (withWindow up) 1 none ∧ (withWindow up).imq.length < 4 ∧ (request 1).good = true)
    ∧ (ok (fullInbound (withWindow up)) 1 none ∧ ¬(fullInbound up).imq.length < 4)
    ∧ ok (withWindow up) 1 (some (.memoryPlace none))
    ∧ ok (withWindow up) 2 (some (.memoryPlace (some 7))) := by decide +kernel

/-- No buffer is free. -/
def noBuffer : State := { withWindow up with pool := Vector.replicate 8 (.held .responder .assigned) }

/-- Buffers 6 and 7 are held, and 0–2 as well. -/
def responderHeld : State :=
  { noBuffer with pool := ((noBuffer.pool.set 3 .free).set 4 .free).set 5 .free }

theorem met_ReadTakesBuffer :
    let ok := fun (s : State) (w : Option Wait) => let t := withCell s (request 2) w
      t.between ∧ t.inboundStaged
        ∧ t.lookup (request 2).header.source false (request 2).header.ringAddr
            (request 2).header.length.toNat = .accepted 15 0x2FC0
    (ok (withWindow up) none ∧ (withCell (withWindow up) (request 2)).responderTakes 6)
    ∧ (ok responderHeld none ∧ (withCell responderHeld (request 2)).responderTakes 3)
    ∧ (ok (fullInbound (withWindow up)) none ∧ ¬(fullInbound up).imq.length < 4)
    ∧ ok (withWindow up) (some .responderBuffer)
    ∧ (ok noBuffer none ∧ ∀ b, ¬(withCell noBuffer (request 2)).bufferFree b) := by decide +kernel

/-- A request of slot 5 that runs one byte over the end of window 15. -/
def past (kind : Byte) : RxCell := request kind 0x80000FC1

def pastWaiting : State :=
  withCell (withBuffer (withWindow up) 6 .responder .assigned) (past 2) (some (.memoryPlace (some 6)))

theorem met_RequestRefused :
    let verdict := fun (s : State) (c : RxCell) =>
      s.lookup c.header.source (c.header.kind = 1) c.header.ringAddr c.header.length.toNat
    ((withCell (withWindow up) (past 1)).between ∧ (past 1).good = true
      ∧ verdict (withCell (withWindow up) (past 1)) (past 1) = .refused .range (some 15))
    ∧ (verdict (withCell (fullReplies up) (past 2)) (past 2) = .refused .noWindow none
      ∧ ¬(fullReplies up).replyQueue.length < 8)
    ∧ ((withCell up { past 1 with good := false }).between ∧ (past 1).header.kind = 1)
    ∧ (pastWaiting.between ∧ pastWaiting.imq.length < 4
      ∧ pastWaiting.pool[6] = .held .responder .assigned
      ∧ verdict pastWaiting (past 2) = .refused .range (some 15))
    ∧ (let s := withCell (withWindow up) (past 1) (some (.memoryPlace none))
       s.between ∧ s.inbound.hand = some (.memoryPlace none) ∧ s.imq.length < 4
        ∧ verdict s (past 1) = .refused .range (some 15))
    ∧ (let s := withCell (withWindow up) (past 2) (some .responderBuffer)
       s.between ∧ s.inbound.hand = some .responderBuffer ∧ s.responderTakes 6 ∧ s.imq.length < 4
        ∧ verdict s (past 2) = .refused .range (some 15))
    ∧ (let s := withCell (fullInbound (withWindow up)) (past 2) (some .responderBuffer)
       s.between ∧ s.responderTakes 6 ∧ ¬s.imq.length < 4) := by decide +kernel

/-- A cell of a given kind. -/
def kindCell (k : Byte) : RxCell := cell (head 5 k 0 3 0 0 0)

theorem met_CellsThatNothingTakes :
    (withCell up (kindCell 7)).between ∧ (withCell up (kindCell 7)).inbound.hand = none
      ∧ (kindCell 7).header.kind = 7 ∧ (kindCell 8).header.kind = 8 ∧ (kindCell 0).header.kind = 0
      ∧ 8 < (kindCell 9).header.kind.toNat ∧ 8 < (kindCell 255).header.kind.toNat := by decide +kernel

/-- The Management Unit waits for its reset reply to leave. -/
def resetting : State := { up with mgmt := { Mgmt.reset with mode := .resetting } }

theorem met_ManagementCellInHand :
    (withCell up (mgmtCell [1])).between ∧ (mgmtCell [1]).header.kind = 6 ∧ (mgmtCell [1]).good = true
      ∧ up.mgmt.mode = .ready ∧ (withCell resetting (mgmtCell [1])).between
      ∧ resetting.mgmt.mode = .resetting
      ∧ (withCell up { mgmtCell [1] with good := false }).between := by decide +kernel

/-- A response of slot 3 to tag 15 of mover 0. -/
def response (k : Byte) (length : Byte := 16) (tag : Byte := 15) : RxCell :=
  cell (head 3 k 0 tag length 0 0x1030 6) [1]

/-- The response's fields fit the tag. -/
abbrev fits (c : RxCell) (i : TagInfo) : Prop :=
  c.header.tag = byteOf 15 ∧ c.header.source = slotByte i.slot ∧ c.header.origin = moverByte i.origin

theorem met_LateResponse :
    let s := withCell (withTag up (.quarantined readInfo 9)) (response 3)
    let t := withCell (withTag up (.quarantined ackInfo 9)) (response 4)
    (s.between ∧ s.tags[15] = .quarantined readInfo 9 ∧ fits (response 3) readInfo
      ∧ (response 3).header.kind = 3 ∧ (response 3).good = true ∧ readInfo.type = .read 0x8004)
    ∧ (t.between ∧ t.tags[15] = .quarantined ackInfo 9 ∧ fits (response 4) ackInfo
      ∧ (response 4).header.kind = 4 ∧ ackInfo.type = .ackedWrite)
    ∧ (response 5).header.kind = 5 ∧ fits (response 5) readInfo := by decide +kernel

/-- Mover 0 carries out a PULL, with `n` operations in its memory queue. -/
def pulling (n : Nat) : Mover :=
  { moving (.pull xfer100) with queue := List.replicate n moverWrite, tagsHeld := 1 }

def dataWaits : State := withCell { up with mover0 := pulling 1 } (response 3) (some (.moverPlace .m0 0x8004 0x1030))

theorem met_GoodDataWritten :
    let s := fun n => withCell (withTag up (.waiting readInfo (some 9)) (pulling n)) (response 3)
    ((s 1).between ∧ (s 1).tags[15] = .waiting readInfo (some 9) ∧ readInfo.type = .read 0x8004
      ∧ fits (response 3) readInfo ∧ (response 3).header.length.toNat = readInfo.length
      ∧ ((s 1).mover .m0).queue.length < 2)
    ∧ ((s 2).between ∧ ¬((s 2).mover .m0).queue.length < 2)
    ∧ (dataWaits.between ∧ dataWaits.inbound.hand = some (.moverPlace .m0 0x8004 0x1030)
      ∧ (dataWaits.mover .m0).queue.length < 2) := by decide +kernel

theorem met_ResponsesTaken :
    let s := fun t c => withCell (withTag up t (settled pushLast 83)) c
    ((s (.waiting ackInfo (some 9)) (response 4)).between ∧ fits (response 4) ackInfo
      ∧ (s (.waiting ackInfo (some 9)) (response 4)).tags[15] = .waiting ackInfo (some 9)
      ∧ ((s (.waiting ackInfo (some 9)) (response 4)).mover .m0).state = .moving
      ∧ 83 + ackInfo.length ≠ xfer100.byteCount ∧ 84 + ackInfo.length = xfer100.byteCount)
    ∧ ((s (.waiting readInfo (some 9)) (response 5)).tags[15] = .waiting readInfo (some 9)
      ∧ fits (response 5) readInfo ∧ (settled pushLast 83).fault = none)
    ∧ (fits (response 3 17) readInfo ∧ (response 3 17).header.length.toNat ≠ readInfo.length)
    ∧ ((s (.abandoned readInfo (some 9)) (response 5)).between
      ∧ (s (.abandoned readInfo (some 9)) (response 5)).tags[15] = .abandoned readInfo (some 9))
    ∧ ((withCell up (response 4)).between ∧ (withCell up (response 4)).tags[15] = .free)
    ∧ ((s .free (response 5 0 0xFF)).between ∧ (response 5 0 0xFF).header.tag = 0xFF
      ∧ (response 5 0 0xFF).header.origin = moverByte .m0)
    ∧ (settled pushLast 84 .none (.stopping .element)).finishing
    ∧ ((withCell (withTag (drainingAs (drained .aborting)) (.abandoned readInfo (some 9))
          (drained .aborting)) (response 3)).between
      ∧ (drainingAs (drained .aborting)).isQuiet .m0
      ∧ { response 3 with good := false }.good = false ∧ (response 3).header.kind = 3)
    ∧ ((drained .faulting).drains ∧ (drained .faulting).current = .element (elem (.push xfer100 false)))
    ∧ (at_ (.stopping .fetch) (.address 0x2000)).state = .stopping .fetch
    ∧ (up.mover .m0).state = .idle
    ∧ ((withCell up (response 3 16 0x10)).between ∧ (response 3 16 0x10).header.tag = 0x10
      ∧ (withCell up (response 5 0 0xFE)).between ∧ (response 5 0 0xFE).header.tag ≠ 0xFF)
    ∧ ((withCell up (response 3 16 0xFF)).between ∧ (response 4 0 0xFF).header.kind ≠ 5
      ∧ (cell (head 3 5 2 0xFF 0 0 0x1030)).header.origin = 2) := by decide +kernel

/-- A response that finds no entry: a FREE tag, one whose cell has not finished, another source. -/
theorem met_ResponsesTaken_stray :
    let s := fun t c => withCell (withTag up t) c
    let matched := fun (t : Tag) (c : RxCell) => ∃ i, t.sentAs i ∧ c.header.source = slotByte i.slot
    let far := cell (head 4 3 0 15 16 0 0x1030 6) [1]
    ((s .free (response 4)).between ∧ ¬matched .free (response 4))
    ∧ ((s (.waiting readInfo none) (response 3)).between ∧ ¬matched (.waiting readInfo none) (response 3))
    ∧ ((s (.waiting readInfo (some 9)) far).between ∧ ¬matched (.waiting readInfo (some 9)) far) := by
  refine ⟨⟨by decide, ?_⟩, ⟨by decide, ?_⟩, ⟨by decide, ?_⟩⟩
  · simp [Tag.sentAs]
  · simp [Tag.sentAs]
  · simp [Tag.sentAs, readInfo, cell, head, slotByte]

def sevenReplies : State := { up with replyQueue := List.replicate 7 ackCell }

def waitingReply : WaitingReply := ⟨3, 7, 0xFF, 9, .ok, [1, 0], false⟩

theorem met_RepliesPlaced :
    let a := withCell sevenReplies (past 1) (some (.nakPlace .range))
    let b : State := { sevenReplies with mgmt := { Mgmt.reset with replyLast := some waitingReply } }
    let c : State := { sevenReplies with mgmt := { Mgmt.reset with replyDeferred := some waitingReply } }
    let d : State := { sevenReplies with events := { EventUnit.reset with waiting := some ⟨3, 7, 0x10⟩ } }
    (a.between ∧ a.replyQueue.length < 8 ∧ a.inbound.hand = some (.nakPlace .range))
    ∧ (b.between ∧ b.replyQueue.length < 8 ∧ b.mgmt.replyLast = some waitingReply)
    ∧ (c.between ∧ c.replyQueue.length < 8 ∧ c.mgmt.replyDeferred = some waitingReply)
    ∧ (d.between ∧ d.replyQueue.length < 8 ∧ d.events.waiting = some ⟨3, 7, 0x10⟩) := by decide +kernel

/-- Two operations of window 15 in the Inbound Memory Queue. -/
def twoInbound (kind : InboundKind) (st : InboundStage) (n : Nat := 2) (w : WindowState := .opened) : State :=
  { withWindow up { window15 with inFlight := n, state := w } with
    imq := [inOp kind st, inOp (.write [1, 2] true) .queued] }

def closing : Deferred := ⟨.windowClose 15, 9, 3, 7, 0xFF⟩

/-- The last operation of window 15 is at the head, and its close is deferred. -/
def drainingOf (kind : InboundKind) (st : InboundStage) : State :=
  { twoInbound kind st 1 .draining with
    imq := [inOp kind st], mgmt := { Mgmt.reset with deferred := some closing } }

def filledRead : State := withBuffer (twoInbound (.read 7) (.replying true)) 7 .responder (.filled [1, 2])

theorem met_InboundReplyPlaced :
    let last := fun (s : State) (kind : InboundKind) (ok : Bool) =>
      s.imq = [inOp kind (.replying ok)] ∧ s.replyQueue.length < 8 ∧ s.windows[15].state = .draining
        ∧ s.windows[15].inFlight ≤ 1 ∧ s.mgmt.deferred = some closing ∧ closing.target = .windowClose 15
    ((twoInbound (.write [1, 2] true) (.replying true)).replyQueue.length < 8
      ∧ (twoInbound (.write [1, 2] true) (.replying true)).windows[15].state = .opened)
    ∧ (filledRead.replyQueue.length < 8 ∧ filledRead.windows[15].state = .opened
      ∧ filledRead.pool[7] = .held .responder (.filled [1, 2]))
    ∧ last (drainingOf (.read 7) (.replying false)) (.read 7) false
    ∧ last (drainingOf (.write [1, 2] true) (.replying true)) (.write [1, 2] true) true
    ∧ last (withBuffer (drainingOf (.read 7) (.replying true)) 7 .responder (.filled [1, 2])) (.read 7) true
    ∧ ¬(fullReplies (drainingOf (.read 7) (.replying false))).replyQueue.length < 8 := by decide +kernel

def readQueued : State := { up with mover0 := { moving with queue := [{ moverRead with stage := .queued }] } }

def topFetch : State := { fetching up .m0 0xFFFFFFF0 with mover0 := at_ .fetching (.address 0xFFFFFFF0) }

/-- The fetch in flight is discarded. -/
def discarded (s : State) : State :=
  { s with fetcher := { s.fetcher with inFlight := s.fetcher.inFlight.map ({ · with discarded := true }) } }

theorem met_MemoryGranted :
    (State.nextGrant { up with imq := [inOp (.read 7) .atPort] } = some .inbound
      ∧ State.presented { up with imq := [inOp (.read 7) .atPort] } .inbound = some (.read, 0x2FC0, 2))
    ∧ ((fetching up .m0 0xFFFFFFE8).between ∧ (fetching up .m0 0xFFFFFFE8).nextGrant = some .fetch
      ∧ (fetching up .m0 0xFFFFFFE8).presented .fetch = some (.read, 0xFFFFFFE8, 24)
      ∧ (0xFFFFFFE8 : Addr).toNat + 24 ≤ 0x100000000)
    ∧ (readQueued.between ∧ readQueued.port.inFlight = none ∧ readQueued.nextGrant = some (.mover .m0)
      ∧ readQueued.presented (.mover .m0) = some (.read, 0x8004, 2))
    ∧ (topFetch.between ∧ topFetch.nextGrant = some .fetch
      ∧ topFetch.presented .fetch = some (.read, 0xFFFFFFF0, 24)
      ∧ 0x100000000 < (0xFFFFFFF0 : Addr).toNat + 24
      ∧ topFetch.fetcher.inFlight = some ⟨.m0, 0xFFFFFFF0, false⟩
      ∧ (topFetch.mover .m0).state = .fetching ∧ (topFetch.mover .m0).fault = none)
    ∧ ((State.presented up .inbound = none ∧ State.presented up .fetch = none)
      ∧ ∀ m : Fin 2, State.presented up (.mover (if m = 0 then .m0 else .m1)) = none)
    ∧ (Requester.behind .inbound (.mover .m1) = 0 ∧ Requester.behind (.mover .m1) (.mover .m1) = 3
      ∧ Requester.behind .inbound .inbound = 3 ∧ Requester.behind .fetch .inbound = 0)
    ∧ (State.nextGrant { topFetch with mover0 := { moving with lookAhead := .pending } } = some .fetch)
    ∧ (State.nextGrant (discarded topFetch) = some .fetch
      ∧ (discarded topFetch).fetcher.inFlight = some ⟨.m0, 0xFFFFFFF0, true⟩
      ∧ (discarded topFetch).between) := by decide +kernel

/-- The operation in flight that `onBus` makes. -/
def busOp (r : Option Requester) (dir : PortDir) (n : Nat) : PortOp := ⟨r, dir, 0x2FC0, n, 4, 7⟩

def inboundBus (kind : InboundKind) (dir : PortDir) : State :=
  withBuffer (onBus (twoInbound kind .atPort) (some .inbound) dir 2) 7 .responder .assigned

/-- The last operation of window 15 is on the bus, and the window's close is deferred. -/
def drainingBus (kind : InboundKind) (dir : PortDir) : State :=
  withBuffer (onBus (drainingOf kind .atPort) (some .inbound) dir 2) 7 .responder .assigned

/-- A window drains, and the bus has its last operation. -/
abbrev drainsLast (s : State) (dir : PortDir) : Prop :=
  s.between ∧ s.port.inFlight = some (busOp (some .inbound) dir 2) ∧ s.windows[15].state = .draining
    ∧ s.windows[15].inFlight ≤ 1 ∧ s.mgmt.deferred = some closing ∧ s.replyQueue.length < 8
    ∧ s.pool[7] = .held .responder .assigned

theorem met_InboundMemoryDone :
    let s := inboundBus (.write [1, 2] false) (.write [1, 2])
    let t := fullReplies (inboundBus (.write [1, 2] true) (.write [1, 2]))
    let u := inboundBus (.read 7) .read
    (s.between ∧ s.port.inFlight = some (busOp (some .inbound) (.write [1, 2]) 2)
      ∧ s.windows[15].state ≠ .draining)
    ∧ drainsLast (drainingBus (.write [1, 2] false) (.write [1, 2])) (.write [1, 2])
    ∧ drainsLast (drainingBus (.write [1, 2] true) (.write [1, 2])) (.write [1, 2])
    ∧ drainsLast (drainingBus (.read 7) .read) .read
    ∧ (t.between ∧ ¬t.replyQueue.length < 8)
    ∧ ((inboundBus (.write [1, 2] true) (.write [1, 2])).between
      ∧ (inboundBus (.write [1, 2] true) (.write [1, 2])).replyQueue.length < 8)
    ∧ ((fullReplies u).between ∧ ¬(fullReplies u).replyQueue.length < 8)
    ∧ (u.between ∧ u.port.inFlight = some (busOp (some .inbound) .read 2) ∧ u.replyQueue.length < 8
      ∧ u.pool[7] = .held .responder .assigned ∧ [5#8, 6#8].length = (busOp none .read 2).length) := by
  decide +kernel

def fetchBus (v : Mover) : State := onBus { fetching up .m0 with mover0 := v } (some .fetch) .read 24

theorem met_FetchDone :
    let s := fetchBus (at_ .fetching (.address 0x2000))
    let t := fetchBus { moving with lookAhead := .pending }
    (s.between ∧ s.port.inFlight = some (busOp (some .fetch) .read 24)
      ∧ s.fetcher.inFlight = some ⟨.m0, 0x2000, false⟩ ∧ (s.mover .m0).state = .fetching
      ∧ (s.mover .m0).fault = none)
    ∧ (t.between ∧ (t.mover .m0).state = .moving)
    ∧ (validateElement 0 0x2000 (elemBytes 1 1 3 100 0x8004 0x2018) =
        .valid (elem (.push xfer100 false) (some 0x2018))
      ∧ (elem (.push xfer100 false) (some 0x2018)).stopAfter = false)
    ∧ ((discarded (fetchBus (at_ (.stopping .fetch) (.address 0x2000)))).between
      ∧ (discarded (fetchBus (settled pushLinked 100 .none (.stopping .element)))).between
      ∧ (settled pushLinked 100 .none (.stopping .element)).settled = xfer100.byteCount
      ∧ (settled pushLinked 99 .none (.stopping .element)).settled ≠ xfer100.byteCount
      ∧ (drained .faulting).drains
      ∧ State.isQuiet { fetchBus (drained .faulting) with fetcher := up.fetcher } .m0)
    ∧ (elemBytes 1 0 3 100 0x8004 0).length = 24
    ∧ validateElement 0 0x2000 (elemBytes 1 0 3 100 0x8004 0) = .valid (elem (.push xfer100 false))
    ∧ validateElement 0 0x2000 (elemBytes 3 0 3 100 0x8004 0) = .valid (elem .gate)
    ∧ validateElement 0 0x2000 (elemBytes 1 0 0 100 0x8004 0) = .failed .elementFormat := by
  decide +kernel

def moverBus (v : Mover) (dir : PortDir) : State :=
  withBuffer (onBus { up with mover0 := v } (some (.mover .m0)) dir 2) 5 (.mover .m0) .assigned

def readAtPort : Mover := { moving with queue := [moverRead], buffersHeld := 1, piecesInFlight := 1 }

theorem met_MoverMemoryDone :
    let s := moverBus readAtPort .read
    let t := moverBus (pulling 1) (.write [1, 2])
    (s.between ∧ s.port.inFlight = some (busOp (some (.mover .m0)) .read 2)
      ∧ (s.mover .m0).queue = [moverRead] ∧ (s.mover .m0).xfer = some xfer100
      ∧ (s.mover .m0).state = .moving ∧ s.pool[5] = .held (.mover .m0) .assigned
      ∧ s.requestQueue.length < 8 ∧ ¬(fullRequests s).requestQueue.length < 8)
    ∧ (t.between ∧ t.port.inFlight = some (busOp (some (.mover .m0)) (.write [1, 2]) 2)
      ∧ (t.mover .m0).queue = [moverWrite] ∧ (t.mover .m0).settled + 2 ≠ xfer100.byteCount)
    ∧ ({ pulling 1 with settled := 98 }.settled + 2 = xfer100.byteCount ∧ (pulling 1).finishing)
    ∧ ((moverBus (drained .faulting [moverRead]) .read).between ∧ (drained .faulting [moverRead]).drains
      ∧ (moverBus (drained .aborting [moverWrite]) (.write [1, 2])).between
      ∧ (drained .aborting [moverWrite]).drains) := by
  decide +kernel

/-- The read of a tracked last piece, which holds tag 15. -/
def trackedRead : MemOp := { moverRead with kind := .read 5 (some 15) }

theorem met_MemoryTimesOut :
    let s := onBus up none .read 2
    let t := inboundBus (.read 7) .read
    let w := inboundBus (.write [1, 2] false) (.write [1, 2])
    let u := moverBus (pulling 1) (.write [1, 2])
    let r := moverBus readAtPort .read
    let f := fetchBus (at_ .fetching (.address 0x2000))
    (s.between ∧ s.port.inFlight = some (busOp none .read 2) ∧ (busOp none .read 2).serial ≠ 6
      ∧ up.port.inFlight = none)
    ∧ (t.between ∧ t.port.inFlight = some (busOp (some .inbound) .read 2)
      ∧ t.windows[15].state ≠ .draining ∧ t.replyQueue.length < 8
      ∧ t.pool[7] = .held .responder .assigned)
    ∧ (w.between ∧ w.port.inFlight = some (busOp (some .inbound) (.write [1, 2]) 2)
      ∧ (fullReplies w).between ∧ ¬(fullReplies w).replyQueue.length < 8)
    ∧ (f.between ∧ f.port.inFlight = some (busOp (some .fetch) .read 24)
      ∧ f.fetcher.inFlight = some ⟨.m0, 0x2000, false⟩ ∧ (f.mover .m0).fault = none
      ∧ (fetchBus { moving with lookAhead := .pending }).between ∧ (discarded f).between)
    ∧ (u.between ∧ (u.mover .m0).queue = [moverWrite] ∧ (u.mover .m0).fault = none
      ∧ (u.mover .m0).current = .element (elem (.pull xfer100)) ∧ (u.mover .m0).finishing)
    ∧ (r.between ∧ (r.mover .m0).queue = [moverRead] ∧ r.pool[5] = .held (.mover .m0) .assigned
      ∧ (r.mover .m0).finishing)
    ∧ (let a := withTag r (.waiting ackInfo none) { readAtPort with queue := [trackedRead] }
       a.between ∧ (a.mover .m0).queue = [trackedRead] ∧ trackedRead.kind = .read 5 (some 15)
        ∧ a.tags[15].owner = some .m0 ∧ (a.mover .m0).finishing)
    ∧ drainsLast (drainingBus (.read 7) .read) .read
    ∧ drainsLast (drainingBus (.write [1, 2] true) (.write [1, 2])) (.write [1, 2])
    ∧ ((moverBus (drained .aborting [moverWrite]) (.write [1, 2])).between
      ∧ (moverBus (drained .faulting [moverRead]) .read).between ∧ (drained .faulting [moverRead]).drains
      ∧ (drained .aborting [moverWrite]).drains) := by
  decide +kernel

/-- Piece `n` of a PUSH is due, at the limits: 3 buffers held, one place in the memory queue. -/
def dueWrite (ack : Bool) (n : Nat) : State :=
  { up with mover0 :=
    { moving (.push xfer100 ack) with nextPiece := some n, buffersHeld := 3, queue := [moverRead] } }

theorem met_PushPieceIssued :
    ((dueWrite false 3).moverTakes 0 ∧ ((dueWrite false 3).mover .m0).buffersHeld < 4
      ∧ ((dueWrite false 3).mover .m0).queue.length < 2 ∧ 3 ≤ xfer100.pieceCount
      ∧ ((dueWrite false 3).mover .m0).nextPiece = some 3)
    ∧ ((dueWrite true 3).tagTaken .m0 0 ∧ 3 = xfer100.pieceCount)
    ∧ State.tagTaken { dueWrite true 3 with tags := (dueWrite true 3).tags.set 0 (.quarantined readInfo 9) } .m0 1
    ∧ (∀ b : BufNo, b.val ≤ 5 → ¬State.bufferFree { dueWrite false 3 with pool := noBuffer.pool } b)
    ∧ State.tagLacking { dueWrite true 3 with tags := Vector.replicate 16 (.waiting readInfo none) } .m0
    ∧ ¬(dueWrite true 3).tagLacking .m0
    ∧ ¬((drainingAs (drained .faulting)).mover .m0).finishing
    ∧ ¬((drainingAs (drained .aborting)).mover .m0).finishing := by decide +kernel

def duePullState : State := { up with mover0 := { moving (.pull xfer100) with nextPiece := some 3 } }

theorem met_PullPieceIssued :
    (duePullState.mover .m0).state = .moving ∧ duePullState.tagTaken .m0 0
      ∧ duePullState.requestQueue.length < 8 ∧ 3 ≤ xfer100.pieceCount
      ∧ 8 ≤ (fullRequests duePullState).requestQueue.length
      ∧ State.tagLacking { duePullState with tags := Vector.replicate 16 (.quarantined readInfo 9) } .m0 := by decide +kernel

def filledOp : MemOp := { moverRead with stage := .filled }

def filledState : State :=
  withBuffer { up with mover0 := { moving with queue := [filledOp] } } 5 (.mover .m0) (.filled [1, 2])

theorem met_WriteCellPlaced :
    (filledState.mover .m0).state = .moving ∧ (filledState.mover .m0).queue = [filledOp]
      ∧ (filledState.mover .m0).xfer = some xfer100
      ∧ filledState.pool[5] = .held (.mover .m0) (.filled [1, 2]) ∧ filledState.requestQueue.length < 8
      ∧ 8 ≤ (fullRequests filledState).requestQueue.length := by
  decide +kernel

theorem met_PieceSplit :
    (1 ≤ xfer100.byteCount ∧ xfer100.byteCount ≤ 65536)
    ∧ (1 < 2 ∧ 2 < xfer100.pieceCount)
    ∧ Xfer.byteCount ⟨3, 65536, 0, 1⟩ = 65536 ∧ Xfer.pieceCount ⟨3, 65536, 0, 1⟩ = 1025
    ∧ Xfer.pieceCount ⟨3, 65536, 0, 64⟩ = 1024 ∧ Xfer.pieceCount ⟨3, 1, 0, 63⟩ = 1 := by decide +kernel

theorem met_ElementValidation :
    let ok := fun bs : List Byte => checkCode (bs.take 20) = halfAt bs 20
    ¬ok [] ∧ ok (elemBytes 4 0 3 100 0x8004 0)
      ∧ (ok (elemBytes 2 1 3 100 0xFFFFFF9D 0x2018)
        ∧ 0x100000000 < (wordAt (elemBytes 2 1 3 100 0xFFFFFF9D 0x2018) 8).toNat + 100)
      ∧ (ok (elemBytes 3 1 3 0 0 0x2019) ∧ (wordAt (elemBytes 3 1 3 0 0 0x2019) 16).toNat % 8 ≠ 0)
      ∧ (ok (elemBytes 2 1 3 100 0xFFFFFF9C 0x2018)
        ∧ ¬0x100000000 < (wordAt (elemBytes 2 1 3 100 0xFFFFFF9C 0x2018) 8).toNat + 100) := by
  decide +kernel

theorem met_TagTimers :
    let s := withTag up (.waiting readInfo (some 9))
    let t := withTag up (.abandoned readInfo (some 9)) (at_ .faulting (.element pushLast))
    (s.between ∧ s.tags[15] = .waiting readInfo (some 9) ∧ (s.mover .m0).fault = none
      ∧ (s.mover .m0).state = .moving)
    ∧ (t.between ∧ t.tags[15] = .abandoned readInfo (some 9)
      ∧ State.isQuiet { t with tags := t.tags.set 15 (.quarantined readInfo 9) } .m0)
    ∧ (withTag up (.quarantined readInfo 9)).tags[15] = .quarantined readInfo 9 := by decide +kernel

/-- The manager's claim in a state, with its lapse timer running. -/
def claim (c : Claim) : Mgmt := { Mgmt.reset with claim := c, lapseTimer := some 5 }

/-- Attention has been raised, and its timer runs. -/
def attending : State :=
  { up with mgmt := claim (.claimed 3), events := { EventUnit.reset with state := .sent, timer := some 50 } }

theorem met_CommandTimers :
    (attending.mgmt.claim = .claimed 3 ∧ attending.mgmt.lapseTimer = some 5)
    ∧ (attending.events.state = .sent ∧ attending.events.timer = some 50
      ∧ attending.mgmt.claim.manager = some 3) := by decide +kernel

theorem met_ClaimAccepted :
    let ok := fun s : State => s.between ∧ s.offers (mgmtCell [1]) ∧ s.mgmt.deferred = none
      ∧ (mgmtCell [1]).header.source = slotByte 3
    (ok (offer up [1] Mgmt.reset) ∧ (offer up [1] Mgmt.reset).mgmt.claim = .unclaimed)
    ∧ (ok (offer up [1]) ∧ (offer up [1]).mgmt.claim.manager = some 3
      ∧ (offer up [1]).mgmt.stored = none)
    ∧ ok (offer (pendingEvent up .claimChange) [1] Mgmt.reset)
    ∧ (ok (offer up [1] (claim (.lapsed 4))) ∧ (4 : Slot) ≠ 3)
    ∧ ok (offer (pendingEvent up .tagExpired) [1] (claim (.lapsed 4)))
    ∧ ok (offer { pendingEvent up .tagExpired with events := attending.events } [1] (claim (.lapsed 4)))
    ∧ ok (offer up [1] (claim (.claimed 4))) := by decide +kernel

/-- A command of the manager can be taken as a new one. -/
abbrev fresh (s : State) (p : List Byte) : Prop := s.between ∧ s.newCommand (mgmtCell p) 3

theorem met_ReleaseExecuted : fresh (offer up [2]) [2] := by decide +kernel

theorem met_QueriesExecuted :
    fresh (offer up [3]) [3]
    ∧ ((offer up [3] (claim (.claimed 4))).between ∧ (offer up [3] (claim (.claimed 4))).offers (mgmtCell [3])
      ∧ (offer up [3] (claim (.claimed 4))).mgmt.claim.manager ≠ some 3)
    ∧ fresh (offer (withWindow up) [8, 15]) [8, 15] ∧ fresh (offer up [8, 0]) [8, 0]
    ∧ fresh (offer up [0x0E, 1]) [0x0E, 1] := by decide +kernel

theorem met_EventsRead : fresh (offer (pendingEvent up .tagExpired) [4]) [4] := by decide +kernel

/-- A SET_PARAMS payload: the presence set's bytes, the eight values, the mask's bytes. -/
def params (lo hi : Byte) (vs : List Byte) : List Byte := [5, lo, hi] ++ vs ++ [0xFF, 0xFF]

/-- Every value at the end of its range. -/
def limits : List Byte := [1, 15, 255, 0, 15, 31, 16, 16]

theorem met_ParamsSet :
    let ok := fun s p => fresh (offer s p) p ∧ p.length = 13 ∧ byteAt p 0 = 5
    (ok up (params 0 2 limits) ∧ 0x200 ≤ (halfAt (params 0 2 limits) 1).toNat)
    ∧ (ok up (params 1 0 [0, 1, 0, 0, 1, 1, 1, 1]) ∧ byteAt (params 1 0 [0, 1, 0, 0, 1, 1, 1, 1]) 3 = 0)
    ∧ (ok { up with mover0 := moving } (params 0x40 0 limits)
      ∧ (halfAt (params 0x40 0 limits) 1).getLsbD 6 = true)
    ∧ (ok up (params 0xFF 1 limits) ∧ ¬0x200 ≤ (halfAt (params 0xFF 1 limits) 1).toNat)
    ∧ ok (pendingEvent up .claimChange) (params 0 1 limits)
    ∧ fresh { offer up (params 4 0 limits) with events := attending.events } (params 4 0 limits) := by
  decide +kernel

/-- A WINDOW_OPEN payload. -/
def openPayload (i : Byte) (rb : Addr) (k : Byte) (cb : Addr) (r : Byte) (mask : BitVec 32) : List Byte :=
  [6, i] ++ le32 rb ++ [k] ++ le32 cb ++ [r] ++ le32 mask

theorem met_WindowOpened :
    let ok := fun p => fresh (offer (withWindow up) p) p ∧ p.length = 16 ∧ byteAt p 0 = 6
    ok (openPayload 16 0 0 0 1 1) ∧ ok (openPayload 15 0 19 0 1 1)
    ∧ (ok (openPayload 15 0 18 0xC0000000 3 0x80000000) ∧ (withWindow up).windows[15].state ≠ .closed)
    ∧ (ok (openPayload 14 0x80000000 18 0xC0000000 3 1) ∧ (withWindow up).windows[14].state = .closed
      ∧ 0xC0000000 + 4096 * 2 ^ 18 ≤ 0x100000000)
    ∧ (ok (openPayload 0 0x80001000 0 0xFFFFF000 2 1)
      ∧ ∀ j : WindowNo, ¬((withWindow up).windows[j].state ≠ .closed
        ∧ 0x80001000 < (withWindow up).windows[j].ringBase.toNat
            + 4096 * 2 ^ (withWindow up).windows[j].sizeExp)) := by decide +kernel

theorem met_WindowClosed :
    (fresh (offer up [7, 16]) [7, 16] ∧ 15 < (16 : Byte).toNat)
    ∧ (fresh (offer up [7, 15]) [7, 15] ∧ (offer up [7, 15]).windows[15].state = .closed)
    ∧ (fresh (offer (withWindow up) [7, 15]) [7, 15] ∧ (withWindow up).windows[15].state = .opened
      ∧ (withWindow up).windows[15].inFlight = 0)
    ∧ (withWindow up { window15 with inFlight := 1 }).windows[15].inFlight ≠ 0 := by decide +kernel

/-- A MOVER_START payload. -/
def start (m : Byte) (a : Addr) : List Byte := [9, m] ++ le32 a

theorem met_MoverStarted :
    let ok := fun s p => fresh (offer s p) p ∧ p.length = 6 ∧ byteAt p 0 = 9
    (ok up (start 2 8) ∧ 2 ≤ (byteAt (start 2 8) 1).toNat)
    ∧ (ok up (start 1 4) ∧ (wordAt (start 1 4) 2).toNat % 8 ≠ 0)
    ∧ (ok { up with mover1 := moving } (start 1 8) ∧ moving.state ≠ .idle)
    ∧ (ok up (start 1 0xFFFFFFF8) ∧ byteAt (start 1 0xFFFFFFF8) 1 = moverByte .m1
      ∧ (wordAt (start 1 0xFFFFFFF8) 2).toNat % 8 = 0 ∧ (up.mover .m1).state = .idle) := by decide +kernel

/-- Mover 0's fetch waits behind that of mover 1. -/
def behind : State :=
  { fetching up .m1 with fetcher := { (fetching up .m1).fetcher with waiting0 := some 0x2000 } }

def inFetching : Mover := at_ .fetching (.address 0x2000)

def gate (next : Option Addr := some 0x2018) : Mover := at_ .gated (.element (elem .gate next true))

/-- A one-byte command for mover 0, which is `v`. -/
def toMover (code : Byte) (v : Mover) (s : State := up) : State := offer { s with mover0 := v } [code, 0]

theorem met_MoverStopped :
    let ok := fun v s => fresh (toMover 0x0A v s) [0x0A, 0]
    (ok moving up ∧ moving.lookAhead ≠ .pending)
    ∧ (ok { moving with lookAhead := .pending } (fetching up .m0)
      ∧ (fetching up .m0).fetcher.waiting .m0 = none)
    ∧ ok { moving with lookAhead := .pending } behind
    ∧ (ok inFetching behind ∧ behind.fetcher.inFlight = some ⟨.m1, 0x2000, false⟩)
    ∧ ok inFetching (fetching up .m0) ∧ ok gate up
    ∧ ok { moving with state := .stopping .element } up ∧ ok Mover.reset up := by decide +kernel

theorem met_GatePassed :
    let ok := fun v => fresh (toMover 0x0B v) [0x0B, 0]
    (ok gate ∧ gate.lookAhead = .none ∧ gate.state = .gated) ∧ ok (gate none) ∧ ok moving := by
  decide +kernel

/-- Both movers have cells and tags: mover 0 a queued READ with tag 15 and a sent one with tag 14. -/
def bothMovers : State :=
  withBuffer
    { up with
      requestQueue := [readCell, { readCell with mover := .m1, header := { readCell.header with tag := 13 } }]
      tags := ((up.tags.set 15 (.waiting readInfo none)).set 14 (.waiting readInfo (some 9))).set 13
        (.waiting { readInfo with origin := .m1 } none) } 5 (.mover .m0) (.filled [1, 2])

theorem met_MoverAborted :
    let ok := fun v s => fresh (toMover 0x0C v s) [0x0C, 0]
    let bare := fun v s => let t := toMover 0x0C v s
      v.queue = [] ∧ v.pendingWrites = 0 ∧ v.lookAhead = .none ∧ t.tagsOwned .m0 = 0
        ∧ t.holdsBuffer .m0 = false ∧ t.requestQueue = [] ∧ t.ring.passCounter = 0
    (ok Mover.reset up ∧ ok (at_ .halted .absent) up)
    ∧ (ok gate up ∧ bare gate up ∧ up.fetcher.inFlight = none)
    ∧ (ok inFetching behind ∧ bare inFetching behind
      ∧ behind.fetcher.inFlight = some ⟨.m1, 0x2000, false⟩)
    ∧ (ok inFetching (fetching up .m0) ∧ bare inFetching (fetching up .m0)
      ∧ (fetching up .m0).fetcher.inFlight = some ⟨.m0, 0x2000, false⟩)
    ∧ ok readAtPort up ∧ ok (drained .faulting) bothMovers
    ∧ ok (drained .faulting [moverRead]) up
    ∧ ¬(toMover 0x0C (drained .faulting [moverRead]) up).isQuiet .m0
    ∧ (let s := toMover 0x0C { moving with queue := [filledOp] } bothMovers
       ok { moving with queue := [filledOp] } bothMovers ∧ s.unsent .m0 15 ∧ ¬s.unsent .m0 14
        ∧ s.givesUp .m0 5 ∧ (s.requestQueue.filter (fun c => c.mover ≠ .m0)).length = 1) := by decide +kernel

theorem met_MoverCleared :
    fresh (offer up [0x0D, 2]) [0x0D, 2] ∧ fresh (toMover 0x0D (at_ .halted .absent)) [0x0D, 0]
      ∧ fresh (toMover 0x0D gate) [0x0D, 0] := by decide +kernel

theorem met_NodeResetTaken : fresh (offer up [0x0F]) [0x0F] := by decide +kernel

theorem met_ManagerCellsRepeated :
    let ok := fun g p => let s := offer up p g
      s.between ∧ s.offers (mgmtCell p) ∧ s.mgmt.claim.manager = some 3
        ∧ (mgmtCell p).header.source = slotByte 3 ∧ (mgmtCell p).header.seq = 9
    (ok { claim (.lapsed 3) with deferred := some closing } [0x0F] ∧ closing.seq = 9
      ∧ Instr.nodeReset.managed = some (commandOf [0x0F]))
    ∧ (ok { claim (.lapsed 3) with deferred := some { closing with seq := 8 } } [1]
      ∧ Instr.claim.managed = some (commandOf [1]))
    ∧ (ok { claim (.lapsed 3) with stored := some ⟨[0xEE, 4], .badArgument⟩, lastSeq := some 9 } []
      ∧ Instr.unknownCommand.managed = some (commandOf [])) := by decide +kernel

/-- A MGMT cell from a source above 31. -/
def farCell : RxCell := { mgmtCell [1] with header := { (mgmtCell [1]).header with source := 32 } }

theorem met_CommandsRefused :
    let ok := fun g p => let s := offer up p g
      s.between ∧ s.offers (mgmtCell p) ∧ (mgmtCell p).header.source.toNat ≤ 31
    ((offer resetting [0x0F] resetting.mgmt).between ∧ resetting.mgmt.mode = .resetting)
    ∧ ((withCell up farCell (some .management)).offers farCell ∧ 31 < farCell.header.source.toNat)
    ∧ (ok (claim (.claimed 4)) [0x0F] ∧ (mgmtCell [0x0F]).header.source ≠ slotByte 4)
    ∧ ok { claim (.claimed 4) with deferred := some closing } [1]
    ∧ (ok (claim (.claimed 4)) [3, 3] ∧ (mgmtCell [3, 3]).payload.length ≠ 1)
    ∧ (fresh (offer up [0x10]) [0x10] ∧ commandOf [0x10] = none) ∧ fresh (offer up []) []
    ∧ (fresh (offer up [2, 2]) [2, 2] ∧ [2, 2].length ≠ Command.release.requestLength)
    ∧ fresh (offer up [8, 16]) [8, 16] ∧ fresh (offer up [0x0A, 2]) [0x0A, 2] := by decide +kernel

/-- A state in which all the invariants hold, with work in every part. -/
def busy : State :=
  { attending with
    windows := attending.windows.set 15 { window15 with inFlight := 1 }
    imq := [inOp (.read 7) .atPort]
    pool := (attending.pool.set 7 (.held .responder .assigned)).set 5 (.held (.mover .m0) .assigned)
    mover0 := { readAtPort with tagsHeld := 1 }
    tags := attending.tags.set 15 (.waiting readInfo (some 9))
    events := { attending.events with records := attending.events.records.set 8 ⟨true, 255⟩ } }

theorem met_invariants :
    busy.withinCapacity ∧ busy.paramsInRange ∧ busy.memoryWf ∧ busy.between ∧ busy.windowsDisjoint
      ∧ busy.inFlightTrue ∧ busy.inboundStaged ∧ busy.tagsSound ∧ busy.buffersSound
      ∧ busy.deferredTrue ∧ busy.recordsSound ∧ busy.attentionSettled
      ∧ busy.pending = [] := by decide +kernel

/-- A command other than HARD_RESET answers a next state. -/
theorem met_OnlyTheseChange :
    (∀ pins, Instr.linkUp ≠ .hardReset pins) ∧ ∃ t, exec .linkUp State.reset = .next t := by
  exact ⟨nofun, _, rfl⟩

end Sys2Proof.Tests
end

section
/-! Move lists: the split of an element into pieces (R9) and the validation of an element (R7). -/

namespace Sys2Proof.Machine

/-! ### The pieces of an element (R9, R10)

Piece `n + 1` begins where piece `n` ends, and it exists exactly when bytes are left there
(`Xfer.lt_pieceCount_iff`); the other facts about the split follow from this one and from the two ways in which the
first piece can end: at a multiple of 64, or at the element's end. -/

section Pieces

variable (x : Xfer)

@[simp] theorem Xfer.pieceOffset_one : x.pieceOffset 1 = 0 := rfl

@[simp] theorem Xfer.pieceLength_one : x.pieceLength 1 = x.firstLength := rfl

variable {x} {n : Nat}

theorem Xfer.pieceOffset_succ (hn : 1 ≤ n) : x.pieceOffset (n + 1) = x.firstLength + 64 * (n - 1) :=
  if_neg (by omega)

theorem Xfer.pieceLength_succ (hn : 1 ≤ n) :
    x.pieceLength (n + 1) = min 64 (x.byteCount - x.pieceOffset (n + 1)) :=
  if_neg (by omega)

theorem Xfer.firstLength_le_byteCount : x.firstLength ≤ x.byteCount := Nat.min_le_left ..

theorem Xfer.firstLength_pos (hx : 1 ≤ x.byteCount) : 1 ≤ x.firstLength := by
  unfold Xfer.firstLength
  omega

theorem Xfer.firstLength_within_block : x.remoteAddr.toNat % 64 + x.firstLength ≤ 64 := by
  unfold Xfer.firstLength
  omega

/-- A first piece that leaves bytes over ends at a multiple of 64. -/
theorem Xfer.firstLength_of_lt (h : x.firstLength < x.byteCount) :
    x.remoteAddr.toNat % 64 + x.firstLength = 64 := by
  unfold Xfer.firstLength at *
  omega

/-- A piece follows piece `n` exactly when bytes are left after it. -/
theorem Xfer.lt_pieceCount_iff (hn : 1 ≤ n) : n < x.pieceCount ↔ x.pieceOffset (n + 1) < x.byteCount := by
  rw [Xfer.pieceOffset_succ hn, Xfer.pieceCount]
  omega

theorem Xfer.one_le_pieceCount : 1 ≤ x.pieceCount := Nat.le_add_right ..

/-- With more than one piece, the first ends at a multiple of 64. -/
theorem Xfer.firstLength_of_one_lt_pieceCount (h : 1 < x.pieceCount) :
    x.remoteAddr.toNat % 64 + x.firstLength = 64 := by
  have left : x.pieceOffset 2 < x.byteCount := (Xfer.lt_pieceCount_iff le_rfl).1 h
  rw [Xfer.pieceOffset_succ le_rfl] at left
  exact Xfer.firstLength_of_lt (by omega)

/-- A piece after the first begins at a multiple of 64, before the element's end. -/
theorem Xfer.pieceOffset_succ_aligned (hn : 1 ≤ n) (h : n < x.pieceCount) :
    (x.remoteAddr.toNat + x.pieceOffset (n + 1)) % 64 = 0 := by
  have first := Xfer.firstLength_of_one_lt_pieceCount (Nat.lt_of_le_of_lt hn h)
  rw [Xfer.pieceOffset_succ hn]
  omega

/-- A piece between the first and the last is a whole block. -/
theorem Xfer.pieceLength_of_interior (hn : 1 < n) (h : n < x.pieceCount) : x.pieceLength n = 64 := by
  obtain ⟨k, rfl⟩ := Nat.exists_eq_add_of_lt hn
  have left := (Xfer.lt_pieceCount_iff (by omega)).1 h
  rw [Xfer.pieceOffset_succ (by omega)] at left
  rw [Xfer.pieceLength_succ (by omega), Xfer.pieceOffset_succ (by omega)]
  omega

/-- A piece begins where the piece before it ends. -/
theorem Xfer.pieceOffset_succ_eq_add (hn : 1 ≤ n) (h : n < x.pieceCount) :
    x.pieceOffset (n + 1) = x.pieceOffset n + x.pieceLength n := by
  rw [Xfer.pieceOffset_succ hn]
  rcases Nat.eq_or_lt_of_le hn with rfl | hn'
  · simp
  · rw [Xfer.pieceLength_of_interior hn' h]
    obtain ⟨k, rfl⟩ := Nat.exists_eq_add_of_lt hn'
    rw [Xfer.pieceOffset_succ (by omega)]
    omega

/-- The last piece ends with the element's last byte. -/
theorem Xfer.last_pieceOffset_add_pieceLength :
    x.pieceOffset x.pieceCount + x.pieceLength x.pieceCount = x.byteCount := by
  have none_left : x.byteCount ≤ x.firstLength + 64 * (x.pieceCount - 1) := by
    have h := (Xfer.lt_pieceCount_iff (Xfer.one_le_pieceCount (x := x))).not.1 (lt_irrefl _)
    rw [Xfer.pieceOffset_succ Xfer.one_le_pieceCount] at h
    omega
  have first_le : x.firstLength ≤ x.byteCount := Xfer.firstLength_le_byteCount
  obtain ⟨k, hk⟩ := Nat.exists_eq_add_of_le' (Xfer.one_le_pieceCount (x := x))
  rw [hk] at none_left ⊢
  rcases Nat.eq_zero_or_pos k with rfl | hk_pos
  · simp only [Nat.zero_add, Xfer.pieceOffset_one, Xfer.pieceLength_one]
    omega
  · have begins := (Xfer.lt_pieceCount_iff (x := x) hk_pos).1 (by omega)
    rw [Xfer.pieceLength_succ hk_pos]
    rw [Xfer.pieceOffset_succ hk_pos] at begins ⊢
    omega

/-- A piece has 1 to 64 bytes and stays within one block of 64. -/
theorem Xfer.piece_within_block (hx : 1 ≤ x.byteCount) (hn : 1 ≤ n) (h : n ≤ x.pieceCount) :
    1 ≤ x.pieceLength n ∧ x.pieceLength n ≤ 64
      ∧ (x.remoteAddr.toNat + x.pieceOffset n) % 64 + x.pieceLength n ≤ 64 := by
  rcases Nat.eq_or_lt_of_le hn with rfl | hn'
  · have pos := Xfer.firstLength_pos hx
    have within_block := Xfer.firstLength_within_block (x := x)
    simp only [Xfer.pieceOffset_one, Xfer.pieceLength_one]
    omega
  · obtain ⟨k, rfl⟩ := Nat.exists_eq_add_of_le' hn
    have begins := (Xfer.lt_pieceCount_iff (x := x) (n := k) (by omega)).1 h
    have aligned := Xfer.pieceOffset_succ_aligned (x := x) (n := k) (by omega) h
    rw [Xfer.pieceLength_succ (by omega)]
    omega

theorem Xfer.pieceCount_bounds (hx : 1 ≤ x.byteCount) :
    (x.byteCount + 63) / 64 ≤ x.pieceCount ∧ x.pieceCount ≤ (x.byteCount + 63) / 64 + 1 := by
  unfold Xfer.pieceCount Xfer.firstLength
  omega

/-- An element of the largest byte count has 1024 pieces when its remote address is aligned, else 1025. -/
theorem Xfer.pieceCount_of_largest (hx : x.byteCount = 65536) :
    x.pieceCount = if x.remoteAddr.toNat % 64 = 0 then 1024 else 1025 := by
  unfold Xfer.pieceCount Xfer.firstLength
  split <;> omega

end Pieces

/-- Settles O35: each clause is a lemma about the split, the pieces being laid end to end from the first on. -/
theorem pieceSplit : Obligations.PieceSplit := by
  intro x hx _
  obtain ⟨count_ge, count_le⟩ := Xfer.pieceCount_bounds hx
  refine ⟨⟨x.pieceOffset_one, x.pieceLength_one⟩,
    fun n hn h => ⟨Xfer.pieceOffset_succ_eq_add hn h, Xfer.pieceLength_succ hn⟩,
    Xfer.last_pieceOffset_add_pieceLength, fun n hn h => ?each, fun n hn h => ?interior,
    count_ge, count_le, Xfer.pieceCount_of_largest⟩
  case each =>
    obtain ⟨pos, le_block, within_block⟩ := Xfer.piece_within_block hx hn h
    exact ⟨pos, le_block, within_block, rfl, rfl, rfl, decide_eq_true_iff⟩
  case interior =>
    refine ⟨?_, Xfer.pieceLength_of_interior hn h⟩
    obtain ⟨k, rfl⟩ := Nat.exists_eq_add_of_le' hn.le
    exact Xfer.pieceOffset_succ_aligned (by omega) (by omega)

/-! ### The validation of an element (R7) -/

section Validation

/-! A flag of a flags byte is one of its bits (R3). -/

@[simp] theorem flagSet_linkFlag (flags : Byte) : flagSet flags linkFlag = flags.getLsbD 0 := by
  revert flags; decide

@[simp] theorem flagSet_stopAfterFlag (flags : Byte) : flagSet flags stopAfterFlag = flags.getLsbD 1 := by
  revert flags; decide

@[simp] theorem flagSet_notifyFlag (flags : Byte) : flagSet flags notifyFlag = flags.getLsbD 2 := by
  revert flags; decide

@[simp] theorem flagSet_elemAckReqFlag (flags : Byte) :
    flagSet flags elemAckReqFlag = flags.getLsbD 3 := by
  revert flags; decide

variable {own : Slot} {addr : Addr} {bytes : List Byte} {op : ElemOp}

/-! The four checks, one lemma for each. -/

theorem validateElement_of_check_ne (h : checkCode (bytes.take 20) ≠ halfAt bytes 20) :
    validateElement own addr bytes = .failed .elementCheck :=
  if_pos h

theorem validateElement_of_unknown_op (hc : checkCode (bytes.take 20) = halfAt bytes 20)
    (h : elemOpOf bytes = none) : validateElement own addr bytes = .failed .elementFormat := by
  simp [validateElement, hc, h]

theorem validateElement_of_invalid_xfer (hc : checkCode (bytes.take 20) = halfAt bytes 20)
    (hop : elemOpOf bytes = some op) (hm : op.moves = true) (h : xferValid own bytes = false) :
    validateElement own addr bytes = .failed .elementFormat := by
  simp [validateElement, hc, hop, hm, h]

theorem validateElement_of_misaligned_next (hc : checkCode (bytes.take 20) = halfAt bytes 20)
    (hl : (byteAt bytes 1).getLsbD 0 = true) (h : (wordAt bytes 16).toNat % 8 ≠ 0) :
    validateElement own addr bytes = .failed .elementFormat := by
  cases hop : elemOpOf bytes with
  | none => exact validateElement_of_unknown_op hc hop
  | some op => simp [validateElement, hc, hop, hl, h]

/-- The record of the valid element in `bytes`, read at `addr`, with operation `op` (R8). -/
def elementRecord (addr : Addr) (bytes : List Byte) (op : ElemOp) : Element :=
  let flags := byteAt bytes 1
  { addr := addr, op := op
    next := if flags.getLsbD 0 = true then some (wordAt bytes 16) else none
    stopAfter := flags.getLsbD 1, notify := flags.getLsbD 2 }

theorem validateElement_of_passes (hc : checkCode (bytes.take 20) = halfAt bytes 20)
    (hop : elemOpOf bytes = some op) (hx : op.moves = true → xferValid own bytes = true)
    (hn : (byteAt bytes 1).getLsbD 0 = true → (wordAt bytes 16).toNat % 8 = 0) :
    validateElement own addr bytes = .valid (elementRecord addr bytes op) := by
  have hx' : (op.moves && !xferValid own bytes) = false := by simpa using hx
  have hn' : ((byteAt bytes 1).getLsbD 0 && decide ((wordAt bytes 16).toNat % 8 ≠ 0)) = false := by
    simpa using hn
  simp only [validateElement, elementRecord, hc, hop, hx', hn', ne_eq, not_true_eq_false, reduceIte,
    flagSet_linkFlag, flagSet_stopAfterFlag, flagSet_notifyFlag, Bool.false_eq_true]

/-! What the checks of the operation and of a PUSH's or PULL's fields ask for. -/

theorem elemOpOf_push (h : byteAt bytes 0 = 1) :
    elemOpOf bytes = some (.push (xferOf bytes) ((byteAt bytes 1).getLsbD 3)) := by
  simp [elemOpOf, h]

theorem elemOpOf_pull (h : byteAt bytes 0 = 2) : elemOpOf bytes = some (.pull (xferOf bytes)) := by
  simp [elemOpOf, h]

theorem elemOpOf_gate (h : byteAt bytes 0 = 3) : elemOpOf bytes = some .gate := by
  simp [elemOpOf, h]

theorem elemOpOf_eq_none (h : ¬(byteAt bytes 0 = 1 ∨ byteAt bytes 0 = 2 ∨ byteAt bytes 0 = 3)) :
    elemOpOf bytes = none := by
  simp only [not_or] at h
  obtain ⟨not_push, not_pull, not_gate⟩ := h
  exact (if_neg not_push).trans ((if_neg not_pull).trans (if_neg not_gate))

/-- A PUSH or a PULL is an operation to which check 3 applies. -/
theorem exists_elemOpOf_moves (h : byteAt bytes 0 = 1 ∨ byteAt bytes 0 = 2) :
    ∃ op, elemOpOf bytes = some op ∧ op.moves = true := by
  rcases h with push | pull
  · exact ⟨_, elemOpOf_push push, rfl⟩
  · exact ⟨_, elemOpOf_pull pull, rfl⟩

/-- The byte count, the remote slot or the local range that check 3 of R7 refuses. -/
def xferOutOfRange (own : Slot) (bytes : List Byte) : Prop :=
  let count := (wordAt bytes 4).toNat
  count = 0 ∨ 65536 < count ∨ 31 < (byteAt bytes 2).toNat ∨ byteAt bytes 2 = slotByte own
    ∨ 0x100000000 < (wordAt bytes 8).toNat + count

theorem xferValid_eq_false_iff : xferValid own bytes = false ↔ xferOutOfRange own bytes := by
  simp only [xferValid, xferOutOfRange, Bool.and_eq_false_iff, decide_eq_false_iff_not, not_not, ne_eq,
    not_le, Nat.lt_one_iff, or_assoc]

/-- A valid element is the record of the operation in its byte 0, and check 3 is not made on a GATE. -/
theorem validateElement_valid (hc : checkCode (bytes.take 20) = halfAt bytes 20)
    (known : byteAt bytes 0 = 1 ∨ byteAt bytes 0 = 2 ∨ byteAt bytes 0 = 3)
    (inRange : ¬((byteAt bytes 0 = 1 ∨ byteAt bytes 0 = 2) ∧ xferOutOfRange own bytes))
    (aligned : ¬((byteAt bytes 1).getLsbD 0 = true ∧ (wordAt bytes 16).toNat % 8 ≠ 0)) :
    ∃ op, elemOpOf bytes = some op
      ∧ validateElement own addr bytes = .valid (elementRecord addr bytes op) := by
  have hn : (byteAt bytes 1).getLsbD 0 = true → (wordAt bytes 16).toNat % 8 = 0 :=
    fun link => not_not.1 fun h => aligned ⟨link, h⟩
  have hx (moves : byteAt bytes 0 = 1 ∨ byteAt bytes 0 = 2) : xferValid own bytes = true :=
    Bool.eq_true_of_not_eq_false fun h => inRange ⟨moves, xferValid_eq_false_iff.1 h⟩
  rcases known with push | pull | gate
  · have hop := elemOpOf_push push
    exact ⟨_, hop, validateElement_of_passes hc hop (fun _ => hx (.inl push)) hn⟩
  · have hop := elemOpOf_pull pull
    exact ⟨_, hop, validateElement_of_passes hc hop (fun _ => hx (.inr pull)) hn⟩
  · have hop := elemOpOf_gate gate
    exact ⟨_, hop, validateElement_of_passes hc hop nofun hn⟩

end Validation

/-- Settles O36, by the four checks in their order. An element that passes them keeps its operation's record. -/
theorem elementValidation : Obligations.ElementValidation := by
  intro own addr bytes
  refine ⟨validateElement_of_check_ne, fun hc refused => ?refused, fun hc known inRange aligned => ?valid⟩
  case refused =>
    rcases refused with unknown | ⟨moves, outOfRange⟩ | ⟨link, misaligned⟩
    · exact validateElement_of_unknown_op hc (elemOpOf_eq_none unknown)
    · obtain ⟨op, hop, hm⟩ := exists_elemOpOf_moves moves
      exact validateElement_of_invalid_xfer hc hop hm (xferValid_eq_false_iff.2 outOfRange)
    · exact validateElement_of_misaligned_next hc link misaligned
  case valid =>
    obtain ⟨op, hop, valid⟩ := validateElement_valid hc known inRange aligned
    have same {op'} (h : elemOpOf bytes = some op') : op = op' := Option.some.inj (hop.symm.trans h)
    exact ⟨_, valid, rfl, rfl, rfl, rfl, fun push => same (elemOpOf_push push),
      fun pull => same (elemOpOf_pull pull), fun gate => same (elemOpOf_gate gate)⟩

end Sys2Proof.Machine
end

section
/-! Mover commands that answer at once: what the Management Unit's step leaves when the command changes one mover
at most, and MOVER_CLEAR (R44, R180). -/

namespace Sys2Proof.Machine

/-- The state in which an entry executes a new command of the manager `m`: the cell has been taken, and the claim
is CLAIMED (`State.takeMgmt_new`). -/
def State.executing (s : State) (m : Slot) : State :=
  { s with inbound := s.inbound.taken, mgmt := { s.mgmt with claim := .claimed m } }

@[simp] theorem State.executing_mover (s : State) (m : Slot) (k : MoverId) :
    (s.executing m).mover k = s.mover k := by
  cases k <;> rfl

theorem State.between.setMover {s : State} (h : s.between) (k : MoverId) (v : Mover) :
    (s.setMover k v).between := by
  simpa only [State.between, State.setMover_raised, State.setMover_fetcher] using h

section NewCommand

variable {s : State} {c : RxCell} {m : Slot} {cmd : Command} {st : Status} {results : List Byte} {entry : Entry}

/-- The step of a new command whose entry sets the mover `k` to `v` and answers at once. -/
theorem State.finish_takeMgmt_setMover (hb : s.between) (hn : s.newCommand c m)
    (hc : commandOf c.payload = some cmd) (hl : c.payload.length = cmd.requestLength) {k : MoverId} {v : Mover}
    (he : entry c (s.executing m) = ((s.executing m).setMover k v, .reply st results))
    (hs : st = .ok ∨ results = []) (stranger : Stranger) :
    (s.takeMgmt (some cmd) entry stranger).finish = (s.answered c m st results).setMover k v := by
  have claimed : ((s.executing m).setMover k v).mgmt.claim = .claimed m := by
    rw [State.setMover_mgmt]; rfl
  have taken : s.takeMgmt (some cmd) entry stranger = (s.answered c m st results).setMover k v := by
    rw [State.takeMgmt_answered hn hc hl entry stranger he claimed hs]
    cases k <;> rfl
  have settled : (s.answered c m st results).between := hb
  rw [taken, State.finish_between _ (settled.setMover k v)]

/-- The step of a new command whose entry changes nothing and answers at once. -/
theorem State.finish_takeMgmt_plain (hb : s.between) (hn : s.newCommand c m)
    (hc : commandOf c.payload = some cmd) (hl : c.payload.length = cmd.requestLength)
    (he : entry c (s.executing m) = (s.executing m, .reply st results))
    (hs : st = .ok ∨ results = []) (stranger : Stranger) :
    (s.takeMgmt (some cmd) entry stranger).finish = s.answered c m st results := by
  have settled : (s.answered c m st results).between := hb
  rw [State.takeMgmt_plain hn hc hl entry stranger he hs, State.finish_between _ settled]

end NewCommand

/-! ### MOVER_CLEAR -/

section MoverClear

variable {s : State} {c : RxCell} {k : MoverId}

theorem moverClearEntry_unknown (h : moverOf (byteAt c.payload 1) = none) :
    moverClearEntry c s = (s, .reply .badArgument []) := by
  simp only [moverClearEntry, h]

theorem moverClearEntry_halted (hk : moverOf (byteAt c.payload 1) = some k) (h : (s.mover k).state = .halted) :
    moverClearEntry c s = (s.setMover k { s.mover k with state := .idle }, .reply .ok []) := by
  simp only [moverClearEntry, hk, if_pos h]

theorem moverClearEntry_not_halted (hk : moverOf (byteAt c.payload 1) = some k)
    (h : (s.mover k).state ≠ .halted) : moverClearEntry c s = (s, .reply .wrongState []) := by
  simp only [moverClearEntry, hk, if_neg h]

theorem exec_moverClear (s : State) :
    exec .moverClear s = .next (s.takeMgmt (some .moverClear) moverClearEntry notManager).finish := rfl

end MoverClear

/-- Settles O50, by the three answers of the entry: each is given at once, and only the clearing of a HALTED mover
changes a mover. -/
theorem moverCleared : Obligations.MoverCleared := by
  intro s c m b hb hn hp
  have hc : commandOf c.payload = some .moverClear := by rw [hp]; rfl
  have hl : c.payload.length = Command.requestLength .moverClear := by rw [hp]; rfl
  have operand : byteAt c.payload 1 = b := by rw [hp]; rfl
  simp only [exec_moverClear, Host.Outcome.next.injEq]
  refine ⟨fun unknown => ?unknown, fun k hk => ⟨fun halted => ?halted, fun other => ?other⟩⟩
  case unknown =>
    have names_none : moverOf (byteAt c.payload 1) = none := by rw [operand, moverOf_none unknown]
    exact State.finish_takeMgmt_plain hb hn hc hl (moverClearEntry_unknown names_none) (.inr rfl) _
  all_goals have names : moverOf (byteAt c.payload 1) = some k := by rw [operand, hk, moverOf_moverByte]
  case halted =>
    have entry := moverClearEntry_halted (s := s.executing m) names (by simpa using halted)
    rw [State.executing_mover] at entry
    exact State.finish_takeMgmt_setMover hb hn hc hl entry (.inl rfl) _
  case other =>
    have entry := moverClearEntry_not_halted (s := s.executing m) names (by simpa using other)
    exact State.finish_takeMgmt_plain hb hn hc hl entry (.inr rfl) _

end Sys2Proof.Machine
end

section
/-! Responses in the Dispatcher's hand: the kinds and tags that reach the Tag Table (R53, R86), and the late response
to a QUARANTINED tag (R58). -/

namespace Sys2Proof.Machine

/-! ### Kinds and tags -/

@[simp] theorem Kind.ofByte_code (k : Kind) : Kind.ofByte k.code = some k := by cases k <;> rfl

theorem Kind.code_inj {k l : Kind} (h : k.code = l.code) : k = l :=
  Option.some.inj (by rw [← Kind.ofByte_code k, h, Kind.ofByte_code])

theorem Header.kind?_of_code {h : Header} {k : Kind} (hk : h.kind = k.code) : h.kind? = some k := by
  rw [Header.kind?, hk, Kind.ofByte_code]

/-- The tag byte of an entry is not that of an untracked cell (R135). -/
theorem byteOf_tagNo_ne_untracked (t : TagNo) : byteOf t.val ≠ 0xFF := by
  revert t
  decide

/-- The kinds that answer a request. -/
def Kind.isResponse : Kind → Bool
  | .data | .ack | .nak => true
  | _ => false

/-- Only a DATA, an ACK or a NAK fits a request type (R53). -/
theorem RequestType.isResponse_of_answeredBy {r : RequestType} {k : Kind} (h : r.answeredBy k = true) :
    k.isResponse = true := by
  cases k with
  | data | ack | nak => rfl
  | write | read | mgmt | reply | attn => cases r <;> exact h

/-! ### A response goes to the Tag Table (R53, R86) -/

section Responses

variable {s : State} {c : RxCell} {rest : List RxCell} {k : Kind} {t : TagNo} {i : TagInfo} {e : Time}

/-- CELL_ERROR of a DATA whose payload check failed (R53). -/
def badData (k : Kind) (c : RxCell) : Option Event :=
  if k = .data ∧ c.good = false then some .cellError else none

theorem badData_of_mem {a : Event} (h : a ∈ badData k c) : a = .cellError := by
  unfold badData at h
  split at h
  · exact (Option.some.inj h).symm
  · cases h

/-- The Tag Table has examined the payload check of a response that it takes (R53). -/
def State.checkedData (s : State) (k : Kind) (c : RxCell) : State :=
  { s with raised := s.raised ++ (badData k c).toList }

theorem State.checkedData_eq :
    (if k = .data ∧ c.good = false then s.raise .cellError else s) = s.checkedData k c := by
  unfold State.checkedData badData
  split
  · rfl
  · simp

@[simp] theorem State.checkedData_tags : (s.checkedData k c).tags = s.tags := rfl

theorem dispatch_response (hand : s.inbound.hand = none) (queue : s.inbound.queue = c :: rest)
    (hk : c.header.kind? = some k) (hr : k.isResponse = true) : dispatch s = s.dispatchResponse k c := by
  cases k with
  | data | ack | nak => simp only [dispatch, hand, queue, hk]
  | write | read | mgmt | reply | attn => cases hr

theorem State.dispatchResponse_tagged (ht : c.header.tag = byteOf t.val) :
    s.dispatchResponse k c = s.tagResponse k c :=
  if_neg (ht ▸ byteOf_tagNo_ne_untracked t)

theorem exec_dispatchCell_tagged (hand : s.inbound.hand = none) (queue : s.inbound.queue = c :: rest)
    (hk : c.header.kind? = some k) (hr : k.isResponse = true) (ht : c.header.tag = byteOf t.val) :
    exec .dispatchCell s = .next (s.tagResponse k c).finish := by
  rw [← State.dispatchResponse_tagged ht, ← dispatch_response hand queue hk hr]
  rfl

/-! ### A late response (R58) -/

theorem Tag.quarantined_matchesResponse (hs : c.header.source = slotByte i.slot)
    (ho : c.header.origin = moverByte i.origin) (hf : i.type.answeredBy k = true) :
    (Tag.quarantined i e).matchesResponse c.header k = true := by
  simp [Tag.matchesResponse, Tag.sent, Tag.info, hs, ho, hf]

/-- A tag without an owner is freed with no mover told (R58). -/
theorem State.freeTag_of_unowned (h : s.tags[t].owner = none) : s.freeTag t = s.setTag t .free := by
  simp only [State.freeTag, State.dropTag, h]

/-- A late response has left the Receive Queue, and its tag is FREE (R58). -/
def State.lateTaken (s : State) (t : TagNo) (rest : List RxCell) : State :=
  { s with inbound := { queue := rest, hand := none }, tags := s.tags.set t .free }

/-- The Tag Table frees the QUARANTINED tag that a response matches, and raises STRAY_RESPONSE. -/
theorem State.tagResponse_quarantined (hq : s.tags[t] = .quarantined i e) (queue : s.inbound.queue = c :: rest)
    (ht : c.header.tag = byteOf t.val) (hm : (Tag.quarantined i e).matchesResponse c.header k = true) :
    s.tagResponse k c =
      { s.lateTaken t rest with raised := (s.checkedData k c).raised ++ [.strayResponse] } := by
  have freed : (s.checkedData k c).freeTag t = (s.checkedData k c).setTag t .free :=
    State.freeTag_of_unowned (by rw [State.checkedData_tags, hq]; rfl)
  simp only [State.tagResponse, State.checkedData_eq, ht, tagOf_byteOf, State.checkedData_tags, hm, hq, freed,
    if_true]
  simp only [State.checkedData, State.endHandling, State.raise, State.setTag, queue, State.lateTaken, List.tail]

/-- The step of a late response: STRAY_RESPONSE is taken, and CELL_ERROR beside it for a DATA whose payload check
failed (R53, R58). -/
theorem exec_dispatchCell_late (hb : s.between) (hand : s.inbound.hand = none)
    (queue : s.inbound.queue = c :: rest) (hq : s.tags[t] = .quarantined i e) (hk : c.header.kind? = some k)
    (ht : c.header.tag = byteOf t.val) (hs : c.header.source = slotByte i.slot)
    (ho : c.header.origin = moverByte i.origin) (hf : i.type.answeredBy k = true) :
    (s.lateTaken t rest).answers (badData k c) (some .strayResponse) (exec .dispatchCell s) := by
  obtain ⟨none_raised, none_starts⟩ := hb
  have taken := State.tagResponse_quarantined hq queue ht (Tag.quarantined_matchesResponse hs ho hf)
  have raised : (s.tagResponse k c).raised = (badData k c).toList ++ [.strayResponse] := by
    simp only [taken, State.checkedData, none_raised, List.nil_append]
  have ended : (s.tagResponse k c).atEnd = s.lateTaken t rest := by
    simp only [taken, State.atEnd, State.lateTaken, Fetcher.start_idle _ none_starts, none_raised]
  rw [exec_dispatchCell_tagged hand queue hk (RequestType.isResponse_of_answeredBy hf) ht, ← ended]
  exact State.finish_answers _ _ _ raised fun a ha => badData_of_mem ha ▸ rfl

end Responses

/-- The kind and request type of a matching response, as R53 lists them. -/
theorem exists_kind_answering {h : Header} {r : RequestType}
    (fit : h.kind = 3 ∧ (∃ a, r = .read a) ∨ h.kind = 4 ∧ r = .ackedWrite ∨ h.kind = 5) :
    ∃ k : Kind, h.kind = k.code ∧ r.answeredBy k = true := by
  rcases fit with ⟨data, a, rfl⟩ | ⟨ack, rfl⟩ | nak
  · exact ⟨.data, data, rfl⟩
  · exact ⟨.ack, ack, rfl⟩
  · exact ⟨.nak, nak, by cases r <;> rfl⟩

/-- Settles O22: the tag and its bytes match by R53, and the step's occurrences are those of
`exec_dispatchCell_late`. -/
theorem lateResponse : Obligations.LateResponse := by
  intro s c rest t i e hb hand queue hq h ht hs ho fit
  obtain ⟨k, code, hf⟩ := exists_kind_answering fit
  obtain ⟨swap, late⟩ :=
    exec_dispatchCell_late hb hand queue hq (Header.kind?_of_code code) ht hs ho hf
  -- `lateTaken` is the state that the statement calls `freed`; only the occurrences beside are left to say.
  refine ⟨fun fine => ?fine, fun data bad => ?bad⟩
  case fine =>
    have none_bad : badData k c = none := if_neg fun ⟨data, bad⟩ => fine ⟨by rw [code, data]; rfl, bad⟩
    rw [late, none_bad]
    rfl
  case bad =>
    have is_data : k = .data := Kind.code_inj (code.symm.trans data)
    have some_bad : badData k c = some .cellError := if_pos ⟨is_data, bad⟩
    rw [late, some_bad]
    exact ⟨swap, rfl⟩

end Sys2Proof.Machine
end

section
/-! The window lookup: the window that contains a ring address, and the four checks in their order (R69, R71). -/

namespace Sys2Proof.Machine

/-! ### The window of an address (R69, check 2) -/

/-- The entry is OPEN and its ring range contains `a`. -/
def Window.openAt (w : Window) (a : Addr) : Prop :=
  w.state = .opened ∧ w.ringBase.toNat ≤ a.toNat ∧ a.toNat < w.ringEnd

theorem Window.openAt_iff {w : Window} {a : Addr} :
    w.openAt a ↔ (decide (w.state = .opened) && w.contains a) = true := by
  simp only [Window.openAt, Window.contains, Bool.and_eq_true, decide_eq_true_eq]

theorem State.windowAt_eq_none_iff {s : State} {a : Addr} :
    s.windowAt a = none ↔ ∀ i : WindowNo, ¬s.windows[i].openAt a := by
  simp only [State.windowAt, List.find?_eq_none, List.mem_finRange, true_implies, Window.openAt_iff]

/-- The table finds the first entry that is OPEN at the address. -/
theorem State.windowAt_eq_some_iff {s : State} {a : Addr} {i : WindowNo} :
    s.windowAt a = some i ↔ s.windows[i].openAt a ∧ ∀ j : WindowNo, j < i → ¬s.windows[j].openAt a := by
  simp only [State.windowAt, find?_finRange, Window.openAt_iff, Bool.not_eq_true]

/-- Where one entry alone is OPEN at the address, the order of the search does not matter. -/
theorem State.windowAt_of_unique {s : State} {a : Addr} {i : WindowNo} (at_i : s.windows[i].openAt a)
    (only : ∀ j : WindowNo, s.windows[j].openAt a → j = i) : s.windowAt a = some i :=
  State.windowAt_eq_some_iff.2 ⟨at_i, fun j before at_j => before.ne (only j at_j)⟩

/-! ### The permission (R69, check 3) -/

/-- The mask names the source slot, and the window has the right that the kind needs. -/
def Window.permits (w : Window) (source : Byte) (isWrite : Bool) : Prop :=
  w.mask.getLsbD source.toNat = true ∧ if isWrite then w.canWrite = true else w.canRead = true

theorem Window.grants_iff {w : Window} {isWrite : Bool} :
    w.grants isWrite = true ↔ if isWrite then w.canWrite = true else w.canRead = true := by
  cases isWrite <;> exact Iff.rfl

theorem Window.denied_iff {w : Window} {source : Byte} {isWrite : Bool} :
    (!w.mask.getLsbD source.toNat || !w.grants isWrite) = true ↔ ¬w.permits source isWrite := by
  rw [← Bool.not_and, Bool.not_eq_true', ← Bool.not_eq_true, Bool.and_eq_true, Window.grants_iff,
    Window.permits]

/-! ### The four checks, one lemma for each, and the acceptance (R69, R71) -/

section Lookup

variable {s : State} {source : Byte} {isWrite : Bool} {a : Addr} {len : Nat} {i : WindowNo}

theorem State.lookup_of_bad_length (bad : len = 0 ∨ 64 < len) :
    s.lookup source isWrite a len = .refused .format none :=
  if_pos bad

theorem State.lookup_of_no_window (good : ¬(len = 0 ∨ 64 < len)) (hw : s.windowAt a = none) :
    s.lookup source isWrite a len = .refused .noWindow none := by
  rw [State.lookup, if_neg good, hw]

/-- With a good length and a window found, the permission and the extent are checked at that window. -/
theorem State.lookup_of_window (good : ¬(len = 0 ∨ 64 < len)) (hw : s.windowAt a = some i) :
    s.lookup source isWrite a len =
      if !s.windows[i].mask.getLsbD source.toNat || !s.windows[i].grants isWrite then .refused .denied (some i)
      else if s.windows[i].ringEnd < a.toNat + len then .refused .range (some i)
      else .accepted i (s.windows[i].cardBase + (a - s.windows[i].ringBase)) := by
  rw [State.lookup, if_neg good, hw]

theorem State.lookup_of_not_permitted (good : ¬(len = 0 ∨ 64 < len)) (hw : s.windowAt a = some i)
    (denied : ¬s.windows[i].permits source isWrite) :
    s.lookup source isWrite a len = .refused .denied (some i) := by
  rw [State.lookup_of_window good hw, if_pos (Window.denied_iff.2 denied)]

theorem State.lookup_of_beyond_end (good : ¬(len = 0 ∨ 64 < len)) (hw : s.windowAt a = some i)
    (permitted : s.windows[i].permits source isWrite) (beyond : s.windows[i].ringEnd < a.toNat + len) :
    s.lookup source isWrite a len = .refused .range (some i) := by
  rw [State.lookup_of_window good hw, if_neg (Window.denied_iff.not_left.2 permitted), if_pos beyond]

theorem State.lookup_of_passes (good : ¬(len = 0 ∨ 64 < len)) (hw : s.windowAt a = some i)
    (permitted : s.windows[i].permits source isWrite) (fits : a.toNat + len ≤ s.windows[i].ringEnd) :
    s.lookup source isWrite a len =
      .accepted i (s.windows[i].cardBase + (a - s.windows[i].ringBase)) := by
  rw [State.lookup_of_window good hw, if_neg (Window.denied_iff.not_left.2 permitted),
    if_neg fits.not_gt]

end Lookup

/-- Settles O16, by the four checks in their order, at the one window that is OPEN at the address. -/
theorem lookupOrder : Obligations.LookupOrder := by
  intro s source isWrite a len inside bad allowed fits
  refine ⟨State.lookup_of_bad_length, fun good none_inside => ?noWindow, fun i inside_i only good => ?window⟩
  case noWindow =>
    exact State.lookup_of_no_window good (State.windowAt_eq_none_iff.2 none_inside)
  case window =>
    have hw : s.windowAt a = some i := State.windowAt_of_unique inside_i only
    refine ⟨fun denied => ?denied, fun permitted beyond => ?range, fun permitted fit => ?accepted⟩
    case denied => exact State.lookup_of_not_permitted good hw denied
    case range => exact State.lookup_of_beyond_end good hw permitted (not_le.1 beyond)
    case accepted => exact State.lookup_of_passes good hw permitted fit

end Sys2Proof.Machine
end

section
/-! Cells in the Dispatcher's hand that no block takes: the stray REPLY and ATTN, and the cell of unknown kind (R82,
R89). -/

namespace Sys2Proof.Machine

/-! ### Unknown kinds -/

theorem Kind.code_range (k : Kind) : 0 < k.code.toNat ∧ k.code.toNat ≤ 8 := by
  cases k <;> decide

theorem Kind.ofByte_eq_none {b : Byte} (h : ∀ k : Kind, k.code ≠ b) : Kind.ofByte b = none :=
  List.find?_eq_none.2 fun k _ hk => h k (beq_iff_eq.1 hk)

/-- A kind byte outside 1–8 names no kind. -/
theorem Header.kind?_eq_none {h : Header} (out : h.kind = 0 ∨ 8 < h.kind.toNat) : h.kind? = none := by
  refine Kind.ofByte_eq_none fun k code => ?_
  obtain ⟨pos, le⟩ := k.code_range
  rw [code] at pos le
  rcases out with zero | above
  · rw [zero] at pos
    exact absurd pos (by decide)
  · exact absurd le (not_le.2 above)

/-! ### The discard of a cell with its event -/

section Discards

variable {s : State} {c : RxCell} {rest : List RxCell}

theorem dispatch_stray (hand : s.inbound.hand = none) (queue : s.inbound.queue = c :: rest)
    (hk : c.header.kind? = some .reply ∨ c.header.kind? = some .attn) :
    dispatch s = (s.raise .strayResponse).endHandling := by
  rcases hk with hk | hk <;> simp only [dispatch, hand, queue, hk]

theorem dispatch_unknown (hand : s.inbound.hand = none) (queue : s.inbound.queue = c :: rest)
    (hk : c.header.kind? = none) : dispatch s = (s.raise .cellError).endHandling := by
  simp only [dispatch, hand, queue, hk]

/-- A step that raises one event and ends the handling takes the event, and the cell in hand is gone (R82). -/
theorem State.finish_discarded (hb : s.between) (queue : s.inbound.queue = c :: rest) (e : Event) :
    ((s.raise e).endHandling).finish =
      State.takeOccurrence { s with inbound := { queue := rest, hand := none } } e := by
  obtain ⟨none_raised, none_starts⟩ := hb
  have raised : ((s.raise e).endHandling).raised = [e] := by
    rw [State.endHandling_raised, State.raise, none_raised, List.nil_append]
  rw [State.finish_one _ e raised none_starts]
  simp only [State.raise, State.endHandling, queue, List.tail, none_raised]

/-- The step of a cell that DISPATCH_CELL discards with the event `e`. -/
theorem exec_dispatchCell_discarded (hb : s.between) (queue : s.inbound.queue = c :: rest) {e : Event}
    (discards : dispatch s = (s.raise e).endHandling) :
    exec .dispatchCell s =
      .next (State.takeOccurrence { s with inbound := { queue := rest, hand := none } } e) := by
  rw [← State.finish_discarded hb queue, ← discards]
  rfl

end Discards

/-- Settles O20, by the kind that the header's kind byte names: the payload check result is not looked at. -/
theorem cellsThatNothingTakes : Obligations.CellsThatNothingTakes := by
  intro s c rest hb hand queue
  refine ⟨fun stray => ?stray, fun unknown => ?unknown⟩
  case stray =>
    have named : c.header.kind? = some .reply ∨ c.header.kind? = some .attn :=
      stray.imp Header.kind?_of_code Header.kind?_of_code
    exact exec_dispatchCell_discarded hb queue (dispatch_stray hand queue named)
  case unknown =>
    exact exec_dispatchCell_discarded hb queue
      (dispatch_unknown hand queue (Header.kind?_eq_none unknown))

end Sys2Proof.Machine
end

section
/-! The staging pool and the outbound queues at a hard reset (R118, R154). -/

namespace Sys2Proof.Machine

section HardReset

variable (pins : Slot) (s : State)

theorem exec_hardReset : exec (.hardReset pins) s = .next (hardReset pins s) := rfl

/-! ### What each block is after HARD_RESET

The operation cut off on the bus reaches card memory and the free counter only, so none of these blocks
depends on the state before. -/

@[simp] theorem hardReset_ring : (hardReset pins s).ring = .reset pins := rfl

@[simp] theorem hardReset_inbound : (hardReset pins s).inbound = { queue := [], hand := none } := rfl

@[simp] theorem hardReset_imq : (hardReset pins s).imq = [] := rfl

@[simp] theorem hardReset_pool : (hardReset pins s).pool = Vector.replicate 8 .free := rfl

@[simp] theorem hardReset_requestQueue : (hardReset pins s).requestQueue = [] := rfl

@[simp] theorem hardReset_replyQueue : (hardReset pins s).replyQueue = [] := rfl

@[simp] theorem hardReset_mover (m : MoverId) : (hardReset pins s).mover m = .reset := by
  cases m <;> rfl

@[simp] theorem hardReset_mgmt : (hardReset pins s).mgmt = .reset := rfl

@[simp] theorem hardReset_events : (hardReset pins s).events = .reset := rfl

/-! ### The pool and its holders (R118) -/

theorem hardReset_pool_free (b : BufNo) : (hardReset pins s).pool[b] = .free := by
  rw [hardReset_pool]
  exact Vector.getElem_replicate b.isLt

/-- No mover counts a buffer, and none has a memory operation whose piece could take a place later. -/
theorem hardReset_mover_holds_none (m : MoverId) :
    ((hardReset pins s).mover m).buffersHeld = 0 ∧ ((hardReset pins s).mover m).queue = [] := by
  rw [hardReset_mover]
  exact ⟨rfl, rfl⟩

/-- Neither a management reply nor an ATTN waits for a place in the Reply Queue. -/
theorem hardReset_no_reply_waits :
    (hardReset pins s).mgmt.replyLast = none ∧ (hardReset pins s).mgmt.replyDeferred = none
      ∧ (hardReset pins s).events.waiting = none := by
  rw [hardReset_mgmt, hardReset_events]
  exact ⟨rfl, rfl, rfl⟩

theorem hardReset_ring_out : (hardReset pins s).ring.out = none := by
  rw [hardReset_ring, Ring.reset]

theorem hardReset_hand : (hardReset pins s).inbound.hand = none := by
  rw [hardReset_inbound]

end HardReset

/-- Settles O4, block by block: the pool and the queues, the movers as holders, and what may wait for a place. -/
theorem hardResetEmptiesQueues : Obligations.HardResetEmptiesQueues := by
  intro pins s
  obtain ⟨held0, queue0⟩ := hardReset_mover_holds_none pins s .m0
  obtain ⟨held1, queue1⟩ := hardReset_mover_holds_none pins s .m1
  obtain ⟨replyLast, replyDeferred, attn⟩ := hardReset_no_reply_waits pins s
  exact ⟨hardReset pins s, exec_hardReset pins s, hardReset_pool_free pins s,
    hardReset_requestQueue pins s, hardReset_replyQueue pins s, held0, held1, queue0, queue1,
    hardReset_imq pins s, hardReset_hand pins s, replyLast, replyDeferred, attn, hardReset_ring_out pins s⟩

end Sys2Proof.Machine
end

section
/-! What a step can do, said once: the moves that a command is made of, each with the conditions under which it is
made. A property that every move keeps is one that every step keeps. -/

namespace Sys2Proof.Machine

/-! ### Room in the queues -/

theorem State.replyRoom_iff {s : State} : s.replyRoom = true ↔ s.replyQueue.length < 8 := decide_eq_true_iff

theorem State.requestRoom_iff {s : State} : s.requestRoom = true ↔ s.requestQueue.length < 8 :=
  decide_eq_true_iff

theorem Mover.queueRoom_iff {v : Mover} : v.queueRoom = true ↔ v.queue.length < 2 := decide_eq_true_iff

/-! ### The moves -/

/-- A mover's record may become `w`: its memory queue grows within its depth only, and its counts of tags and of
buffers, and whether it is ABORTING, stay. -/
structure Mover.Keeps (v w : Mover) : Prop where
  queue : w.queue.length ≤ v.queue.length ∨ w.queue.length ≤ 2
  tagsHeld : w.tagsHeld = v.tagsHeld
  buffersHeld : w.buffersHeld = v.buffersHeld
  aborting : w.state = .aborting ↔ v.state = .aborting

/-- One move of the command `i`. -/
inductive Move (i : Instr) (s : State) : State → Prop where
  /-- the blocks that no other block counts -/
  | blocks (link : Link) (counter : Nat) (out : Option OnRing) (inbound : Inbound)
      (requests : List RequestCell) (replies : List ReplyCell) (fetcher : Fetcher) (port : Port) (now : Time)
      (free : Nat) (raised : List Event) (hc : counter ≤ s.ring.passCounter)
      (hi : inbound.queue.length ≤ s.inbound.queue.length ∨ inbound.queue.length ≤ 8)
      (hq : requests.length ≤ s.requestQueue.length ∨ requests.length ≤ 8)
      (hp : replies.length ≤ s.replyQueue.length ∨ replies.length ≤ 8) (hn : s.now ≤ now) :
      Move i s { s with
        ring := { s.ring with link := link, passCounter := counter, out := out }
        inbound := inbound, requestQueue := requests, replyQueue := replies, fetcher := fetcher, port := port
        now := now, free := free, raised := raised }
  | setMover (m : MoverId) (w : Mover) (h : (s.mover m).Keeps w) : Move i s (s.setMover m w)
  | takeBuffer (m : MoverId) (b : BufNo) (hb : s.pool[b] = .free) (low : b.val ≤ 5)
      (h : (s.mover m).buffersHeld < 4) :
      Move i s ((s.setBuffer b (.held (.mover m) .assigned)).setMover m
        { s.mover m with buffersHeld := (s.mover m).buffersHeld + 1 })
  | takeTag (t : TagNo) (f : TagInfo) (ht : s.tags[t] = .free) :
      Move i s ((s.setTag t (.waiting f none)).setMover f.origin
        { s.mover f.origin with tagsHeld := (s.mover f.origin).tagsHeld + 1 })
  | dropTag (t : TagNo) (x : Tag) (h : x.owner = none) : Move i s (s.dropTag t x)
  | freeBuffer (b : BufNo) : Move i s (s.freeBuffer b)
  | stageBuffer (b : BufNo) (st : BufStage) : Move i s (s.stageBuffer b st)
  | responderTakes (b : BufNo) (hb : s.pool[b] = .free) : Move i s (s.setBuffer b (.held .responder .assigned))
  | abandonTags (m : MoverId) : Move i s (s.abandonTags m)
  | startDeadline (t : TagNo) : Move i s (s.startDeadline t)
  /-- an ABORTING mover is quiet -/
  | endAbort (m : MoverId) (h : (s.mover m).state = .aborting) :
      Move i s ((s.setMover m ((s.mover m).rest .idle none)).reportCompletion (.moverAbort m))
  | enqueueInbound (c : RxCell) (b : Option BufNo) (w : WindowNo) (a : Addr) (room : s.imq.length < 4)
      (hw : s.windows[w].state = .opened) : Move i s (s.enqueueInbound c b w a)
  | leaveInboundQueue : Move i s s.leaveInboundQueue
  | replying (o : InboundOp) (rest : List InboundOp) (ok : Bool) (h : s.imq = o :: rest) :
      Move i s { s with imq := { o with stage := .replying ok } :: rest }
  | countRefused (w : Option WindowNo) : Move i s (s.countRefused w)
  /-- the Management Unit's own fields: no claim comes to be -/
  | mgmt (g : Mgmt) (hp : g.params = s.mgmt.params) (hd : g.deferred = s.mgmt.deferred)
      (hc : s.mgmt.claim = .unclaimed → g.claim = .unclaimed) : Move i s { s with mgmt := g }
  | openWindow (k : WindowNo) (w : Window) (closed : s.windows[k].state = .closed) (hs : w.state = .opened)
      (hn : w.inFlight = 0)
      (free : ∀ j : WindowNo, s.windows[j].state ≠ .closed → s.windows[j].intersects w = false) :
      Move i s (s.setWindow k w)
  | closeWindow (k : WindowNo) (hs : s.windows[k].state = .opened) (hn : s.windows[k].inFlight = 0) :
      Move i s (s.setWindow k { s.windows[k] with state := .closed })
  | drainWindow (k : WindowNo) (d : Deferred) (hs : s.windows[k].state = .opened)
      (hd : s.mgmt.deferred = none) (ht : d.target = .windowClose k) :
      Move i s { s.setWindow k { s.windows[k] with state := .draining } with
        mgmt := { s.mgmt with deferred := some d } }
  | deferAbort (m : MoverId) (d : Deferred) (resume : Option Addr) (hd : s.mgmt.deferred = none)
      (ht : d.target = .moverAbort m) :
      Move i s { s.setMover m { s.mover m with state := .aborting, resume := resume } with
        mgmt := { s.mgmt with deferred := some d } }
  | claimReport : Move i s s.claimReport
  | acceptClaim (m : Slot) (takeover : Bool) : Move i s (s.acceptClaim m takeover)
  | clearEvents : Move i s s.clearEvents
  /-- RELEASE has left no manager -/
  | attentionToIdle (h : s.mgmt.claim = .unclaimed) : Move i s s.attentionToIdle
  | attn (timer : Option Time) (waiting : Option WaitingAttn)
      (h : s.events.state = .sent ∨ timer = s.events.timer ∧ waiting = none) :
      Move i s { s with events := { s.events with timer := timer, waiting := waiting } }
  | memoryEffect (p : PortOp) (r : MemResult) (hi : i = .memoryTimeout ∨ ∃ n a, i = .memoryAnswer n a) :
      Move i s (s.memoryEffect p r)
  | applyParams (f : ParamFields) (hf : f.valid = true) (hi : i = .setParams) : Move i s (s.applyParams f)
  | appendTransit (f : List Byte) (hi : ∃ frame bad, i = .cellReceived frame bad)
      (room : s.ring.transit.length < 4) :
      Move i s { s with ring := { s.ring with transit := s.ring.transit ++ [f] } }
  | popTransit (f : List Byte) (rest : List (List Byte)) (counter : Nat)
      (hi : ∃ r, i = .ringOutChoice r ∨ i = .cellFinished r) (h : s.ring.transit = f :: rest)
      (hc : counter ≤ s.ring.passCounter ∨ counter ≤ s.mgmt.params.passCount) :
      Move i s (State.begin { s with ring := { s.ring with transit := rest } } .transit f counter)
  | nodeReset (hi : ∃ r, i = .cellFinished r) : Move i s s.nodeReset
  | hardReset (pins : Slot) (hi : i = .hardReset pins) : Move i s (hardReset pins s)
  | finish : Move i s s.finish

/-- Moves of the command `i`, one after the other. -/
abbrev Moves (i : Instr) : State → State → Prop := Relation.ReflTransGen (Move i)

/-- What every move keeps, a sequence of them keeps. -/
theorem Moves.keep {i : Instr} {P : State → Prop} (keep : ∀ s t, Move i s t → P s → P t) {s t : State}
    (h : Moves i s t) (hs : P s) : P t := by
  induction h with
  | refl => exact hs
  | tail _ move ih => exact keep _ _ move ih

section MoverMoves

variable {i : Instr} {s : State} {m : MoverId}

theorem Move.moves {t : State} (h : Move i s t) : Moves i s t := .single h

theorem Moves.refl : Moves i s s := Relation.ReflTransGen.refl

/-! ### What the blocks' shared operations are made of -/

theorem Moves.raise (e : Event) : Moves i s (s.raise e) :=
  (Move.blocks _ _ _ _ _ _ _ _ _ _ _ le_rfl (.inl le_rfl) (.inl le_rfl) (.inl le_rfl) le_rfl).moves

theorem Moves.fetcher (f : Fetcher) : Moves i s { s with fetcher := f } :=
  (Move.blocks _ _ _ _ _ _ _ _ _ _ _ le_rfl (.inl le_rfl) (.inl le_rfl) (.inl le_rfl) le_rfl).moves

theorem Moves.port (p : Port) : Moves i s { s with port := p } :=
  (Move.blocks _ _ _ _ _ _ _ _ _ _ _ le_rfl (.inl le_rfl) (.inl le_rfl) (.inl le_rfl) le_rfl).moves

theorem Moves.reach (t : Time) : Moves i s (s.reach t) :=
  (Move.blocks _ _ _ _ _ _ _ _ _ _ _ le_rfl (.inl le_rfl) (.inl le_rfl) (.inl le_rfl) (le_max_left ..)).moves

theorem Moves.inbound (b : Inbound) (h : b.queue.length ≤ s.inbound.queue.length ∨ b.queue.length ≤ 8) :
    Moves i s { s with inbound := b } :=
  (Move.blocks _ _ _ _ _ _ _ _ _ _ _ le_rfl h (.inl le_rfl) (.inl le_rfl) le_rfl).moves

theorem Moves.endHandling : Moves i s s.endHandling := Moves.inbound _ (.inl (by simp))

theorem Moves.wait (w : Wait) : Moves i s (s.wait w) := Moves.inbound _ (.inl le_rfl)

theorem Moves.requests (q : List RequestCell) (h : q.length ≤ s.requestQueue.length ∨ q.length ≤ 8) :
    Moves i s { s with requestQueue := q } :=
  (Move.blocks _ _ _ _ _ _ _ _ _ _ _ le_rfl (.inl le_rfl) h (.inl le_rfl) le_rfl).moves

theorem Moves.replies (q : List ReplyCell) (h : q.length ≤ s.replyQueue.length ∨ q.length ≤ 8) :
    Moves i s { s with replyQueue := q } :=
  (Move.blocks _ _ _ _ _ _ _ _ _ _ _ le_rfl (.inl le_rfl) (.inl le_rfl) h le_rfl).moves

theorem Moves.placeReply (c : ReplyCell) (room : s.replyRoom = true) : Moves i s (s.placeReply c) :=
  Moves.replies _ (.inr (by rw [List.length_append]; exact State.replyRoom_iff.1 room))

theorem Moves.placeRequest (c : RequestCell) (room : s.requestRoom = true) : Moves i s (s.placeRequest c) :=
  Moves.requests _ (.inr (by rw [List.length_append]; exact State.requestRoom_iff.1 room))

theorem Moves.ring (l : Link) (n : Nat) (out : Option OnRing) (h : n ≤ s.ring.passCounter) :
    Moves i s { s with ring := { s.ring with link := l, passCounter := n, out := out } } :=
  (Move.blocks _ _ _ _ _ _ _ _ _ _ _ h (.inl le_rfl) (.inl le_rfl) (.inl le_rfl) le_rfl).moves

theorem Moves.passCounterRule : Moves i s s.passCounterRule := by
  unfold State.passCounterRule
  split
  · exact Moves.ring _ 0 _ (Nat.zero_le _)
  · exact .refl

theorem Moves.setMover (w : Mover) (h : (s.mover m).Keeps w) : Moves i s (s.setMover m w) :=
  (Move.setMover m w h).moves

/-- A new record whose memory queue is not longer. -/
theorem Moves.shrinkMover (w : Mover) (hq : w.queue.length ≤ (s.mover m).queue.length)
    (ht : w.tagsHeld = (s.mover m).tagsHeld) (hb : w.buffersHeld = (s.mover m).buffersHeld)
    (ha : w.state = .aborting ↔ (s.mover m).state = .aborting) : Moves i s (s.setMover m w) :=
  Moves.setMover w ⟨.inl hq, ht, hb, ha⟩

theorem Moves.dropPiece : Moves i s (s.dropPiece m) := Moves.shrinkMover _ le_rfl rfl rfl .rfl

theorem Moves.freeTag (t : TagNo) : Moves i s (s.freeTag t) := (Move.dropTag t .free rfl).moves

theorem Moves.freeUnsent (t : TagNo) : Moves i s (s.freeUnsent t) := by
  unfold State.freeUnsent
  split
  · exact Moves.freeTag t
  · exact .refl

theorem Moves.freeBuffer (b : BufNo) : Moves i s (s.freeBuffer b) := (Move.freeBuffer b).moves

theorem Moves.stageBuffer (b : BufNo) (st : BufStage) : Moves i s (s.stageBuffer b st) :=
  (Move.stageBuffer b st).moves

theorem Moves.withdrawFetch : Moves i s (s.withdrawFetch m) := Moves.fetcher _

theorem Moves.requestFetch (a : Addr) : Moves i s (s.requestFetch m a) := Moves.fetcher _

/-! ### The movers' operations -/

theorem Moves.discardLookAhead : Moves i s (s.discardLookAhead m) := by
  have discarded : Moves i s (s.setMover m { s.mover m with lookAhead := .none }) :=
    Moves.shrinkMover _ le_rfl rfl rfl .rfl
  unfold State.discardLookAhead
  simp only
  split
  · exact discarded.trans Moves.withdrawFetch
  · exact discarded

theorem Moves.withdrawCell (c : RequestCell) : Moves i s (s.withdrawCell c) := by
  unfold State.withdrawCell
  refine Relation.ReflTransGen.trans ?_ Moves.dropPiece
  have freed : Moves i s (match c.buffer with | some b => s.freeBuffer b | none => s) := by
    cases c.buffer with
    | none => exact .refl
    | some b => exact Moves.freeBuffer b
  refine freed.trans ?_
  cases tagOf c.header.tag with
  | none => exact .refl
  | some t => exact Moves.freeUnsent t

theorem Moves.foldl {α : Type} (f : State → α → State) (h : ∀ s a, Moves i s (f s a)) (l : List α)
    (s : State) : Moves i s (l.foldl f s) := by
  induction l generalizing s with
  | nil => exact .refl
  | cons a l ih => exact (h s a).trans (ih (f s a))

theorem Moves.withdrawCells : Moves i s (s.withdrawCells m) :=
  ((Moves.requests _ (.inl (List.length_filter_le ..))).trans
    (Moves.foldl _ (fun _ c => Moves.withdrawCell c) _ _)).trans Moves.passCounterRule

theorem Moves.giveUpFilled : Moves i s (s.giveUpFilled m) := by
  unfold State.giveUpFilled
  simp only
  split
  · next o rest hq =>
    split
    · refine .trans (.trans (Moves.shrinkMover _ ?_ ?_ ?_ ?_) (Moves.freeBuffer _)) Moves.dropPiece <;>
        simp [hq]
    · exact .refl
  · exact .refl

theorem Moves.withdrawMemory : Moves i s (s.withdrawMemory m) :=
  ((Moves.shrinkMover { s.mover m with queue := (s.mover m).queue.map MemOp.withoutTag } (by simp) rfl rfl
    .rfl).trans (Moves.foldl _ (fun _ t => Moves.freeUnsent t) _ _)).trans Moves.giveUpFilled

theorem Moves.withdraw : Moves i s (s.withdraw m) :=
  (((Moves.withdrawCells.trans Moves.withdrawMemory).trans (Move.abandonTags m).moves).trans
    Moves.discardLookAhead).trans Moves.withdrawFetch

theorem Moves.rest (st : MoverState) (r : Option Addr) (hs : st ≠ .aborting)
    (h : (s.mover m).state ≠ .aborting) : Moves i s (s.setMover m ((s.mover m).rest st r)) :=
  Moves.shrinkMover _ le_rfl rfl rfl (by simp [Mover.rest, h, hs])

theorem Moves.endList (r : Option Addr) (h : (s.mover m).state ≠ .aborting) : Moves i s (s.endList m r) :=
  (Moves.rest _ _ (by simp) h).trans (Moves.raise _)

theorem Moves.haltMover (h : (s.mover m).state ≠ .aborting) : Moves i s (s.haltMover m) :=
  (Moves.rest _ _ (by simp) h).trans (Moves.raise _)

theorem Moves.checkQuiet : Moves i s (s.checkQuiet m) := by
  unfold State.checkQuiet
  split
  · split
    · next h => exact Moves.haltMover (by simp [h])
    · next h => exact (Move.endAbort m h).moves
    · exact .refl
  · exact .refl

/-- A fault in the record changes nothing else of the mover. -/
theorem Mover.noteFault_eq (v : Mover) (f : FaultRecord) : ∃ r, v.noteFault f = { v with fault := r } := by
  unfold Mover.noteFault
  split <;> exact ⟨_, rfl⟩

theorem Moves.takeFault (f : FaultRecord) : Moves i s (s.takeFault m f) := by
  obtain ⟨r, hr⟩ := (s.mover m).noteFault_eq f
  have drains (h : (s.mover m).state ≠ .aborting) : Moves i s (((s.setMover m
      { (s.mover m).noteFault f with state := .faulting, resume := none }).withdraw m).checkQuiet m) := by
    rw [hr]
    refine .trans (.trans (Moves.shrinkMover _ ?_ ?_ ?_ ?_) Moves.withdraw) Moves.checkQuiet <;> simp [h]
  have noted : Moves i s (s.setMover m ((s.mover m).noteFault f)) := by
    rw [hr]
    exact Moves.shrinkMover _ le_rfl rfl rfl .rfl
  unfold State.takeFault
  simp only
  split
  · next h => exact drains (by simp [h])
  · next h => exact drains (by simp [h])
  · next h =>
    refine noted.trans (Moves.haltMover ?_)
    rw [State.mover_setMover_same, hr]
    simp [h]
  · exact noted
  · exact noted
  all_goals exact .refl

theorem Moves.becomeCurrent (e : Element) (h : (s.mover m).state ≠ .aborting) :
    Moves i s (s.becomeCurrent m e) := by
  unfold State.becomeCurrent
  simp only
  have current (st : MoverState) (n : Option Nat) (l : LookAhead) (hs : st ≠ .aborting) :
      Moves i s (s.setMover m { s.mover m with
        state := st, current := .element e, nextPiece := n, issued := 0, settled := 0, lookAhead := l }) :=
    Moves.shrinkMover _ le_rfl rfl rfl (by simp [h, hs])
  split
  · split
    · exact (current _ _ _ (by simp)).trans (Moves.requestFetch _)
    · exact current _ _ _ (by simp)
  · split
    · exact (current _ _ _ (by simp)).trans (Moves.requestFetch _)
    · exact current _ _ _ (by simp)
  · exact (current _ _ _ (by simp)).trans (Moves.raise _)

theorem Moves.enterFetching (a : Addr) (h : (s.mover m).state ≠ .aborting) :
    Moves i s (s.enterFetching m a) :=
  Moves.shrinkMover _ le_rfl rfl rfl (by simp [h])

theorem Moves.chain (a : Addr) (h : (s.mover m).state ≠ .aborting) : Moves i s (s.chain m a) := by
  have emptied : Moves i s (s.setMover m { s.mover m with lookAhead := .none }) :=
    Moves.shrinkMover _ le_rfl rfl rfl .rfl
  unfold State.chain
  simp only
  split
  · exact emptied.trans (Moves.becomeCurrent _ (by simpa using h))
  · exact emptied.trans (Moves.enterFetching _ (by simpa using h))
  · next k b _ =>
    obtain ⟨r, hr⟩ := Mover.noteFault_eq { s.mover m with lookAhead := .none } (elementFault k b)
    rw [State.mover_setMover_same, hr]
    refine (emptied.trans (Moves.shrinkMover _ ?_ ?_ ?_ ?_)).trans (Moves.haltMover ?_) <;> simp [h]
  · exact (emptied.trans (Moves.requestFetch a)).trans (Moves.enterFetching _ (by simpa using h))

theorem Moves.countElement (e : Element) : Moves i s (s.countElement m e) := by
  have counted : Moves i s (s.setMover m { s.mover m with completed := (s.mover m).completed + 1 }) :=
    Moves.shrinkMover _ le_rfl rfl rfl .rfl
  unfold State.countElement
  simp only
  split
  · exact counted.trans (Moves.raise _)
  · exact counted

/-- Counting an element leaves the rest of the mover's record. -/
theorem State.countElement_mover (s : State) (m : MoverId) (e : Element) :
    (s.countElement m e).mover m = { s.mover m with completed := (s.mover m).completed + 1 } := by
  unfold State.countElement
  simp only
  split <;> simp

theorem Moves.completeElement (e : Element) (h : (s.mover m).state ≠ .aborting) :
    Moves i s (s.completeElement m e) := by
  have still : ((s.countElement m e).mover m).state ≠ .aborting := by rwa [State.countElement_mover]
  unfold State.completeElement
  simp only
  split
  · exact (Moves.countElement e).trans (Moves.chain _ still)
  · exact (Moves.countElement e).trans (Moves.endList _ still)

theorem Moves.completeStopped (e : Element) (h : (s.mover m).state ≠ .aborting) :
    Moves i s (s.completeStopped m e) := by
  have still : ((s.countElement m e).mover m).state ≠ .aborting := by rwa [State.countElement_mover]
  unfold State.completeStopped
  simp only
  split
  · exact (Moves.countElement e).trans (Moves.shrinkMover _ le_rfl rfl rfl .rfl)
  · exact (Moves.countElement e).trans (Moves.endList _ still)

theorem Moves.settlePiece (n : Nat) : Moves i s (s.settlePiece m n) := by
  have settled : Moves i s (s.setMover m { s.mover m with
      settled := (s.mover m).settled + n, piecesInFlight := (s.mover m).piecesInFlight - 1 }) :=
    Moves.shrinkMover _ le_rfl rfl rfl .rfl
  unfold State.settlePiece
  simp only
  split
  · split
    · split
      · split
        · next h => exact settled.trans (Moves.completeElement _ (by simp [h]))
        · next h => exact settled.trans (Moves.completeStopped _ (by simp [h]))
        · exact settled
      · exact settled
    · exact settled
  · exact settled

theorem Moves.fetchDropped : Moves i s (s.fetchDropped m) := by
  unfold State.fetchDropped
  simp only
  split
  · next h => exact Moves.endList _ (by simp [h])
  · next h =>
    split
    · split
      · exact Moves.endList _ (by simp [h])
      · exact .refl
    · exact .refl
  · exact Moves.checkQuiet
  · exact Moves.checkQuiet
  · exact .refl

end MoverMoves

end Sys2Proof.Machine
end

section
/-! The moves that each command is made of: no command does anything else. -/

namespace Sys2Proof.Machine

variable {i : Instr} {s : State}

/-! ### The card memory port and its requesters -/

section Memory

variable {m : MoverId}

@[simp] theorem State.stageBuffer_requestQueue (b : BufNo) (st : BufStage) :
    (s.stageBuffer b st).requestQueue = s.requestQueue := by
  unfold State.stageBuffer
  split <;> rfl

@[simp] theorem State.stageBuffer_mover (b : BufNo) (st : BufStage) (m : MoverId) :
    (s.stageBuffer b st).mover m = s.mover m := by
  unfold State.stageBuffer
  split
  · exact s.setBuffer_mover b _ m
  · rfl

theorem Moves.takeOutcome (a : Addr) (o : FetchOutcome) : Moves i s (s.takeOutcome m a o) := by
  unfold State.takeOutcome
  simp only
  split
  · next h => exact Moves.becomeCurrent _ (by simp [h])
  · exact Moves.takeFault _
  · exact Moves.shrinkMover _ le_rfl rfl rfl .rfl
  · exact Moves.shrinkMover _ le_rfl rfl rfl .rfl
  · exact .refl

theorem Moves.fetchResult (r : MemResult) : Moves i s (s.fetchResult r) := by
  unfold State.fetchResult
  split
  · simp only
    split
    · exact .trans (Moves.fetcher _) Moves.fetchDropped
    · split
      · exact .trans (Moves.fetcher _) (Moves.takeOutcome _ _)
      · exact .trans (Moves.fetcher _) (Moves.takeOutcome _ _)
  · exact .refl

theorem Moves.placeWrite (o : MemOp) (b : BufNo) (t : Option TagNo) (room : s.requestRoom = true) :
    Moves i s (s.placeWrite m o b t) := by
  unfold State.placeWrite
  simp only
  split
  · refine .trans (.trans (Moves.shrinkMover _ ?_ ?_ ?_ ?_) (Moves.stageBuffer _ _)) (Moves.placeRequest _ ?_)
    any_goals simp
    simpa [State.requestRoom] using room
  · exact .refl

theorem Moves.moverResult (r : MemResult) : Moves i s (s.moverResult m r) := by
  unfold State.moverResult
  simp only
  split
  · next o rest hq =>
    have left : Moves i s (s.setMover m { s.mover m with queue := rest }) := by
      refine Moves.shrinkMover _ ?_ rfl rfl .rfl
      simp [hq]
    have freed (b : BufNo) := (left.trans (Moves.freeBuffer b)).trans (Moves.dropPiece (m := m))
    split
    · next b t bytes _ =>
      split
      · split
        · refine .trans (Moves.stageBuffer _ _) (Moves.placeWrite _ _ _ ?_)
          simpa [State.requestRoom] using ‹s.requestRoom = true›
        · refine .trans (Moves.stageBuffer b (.filled bytes)) (Moves.shrinkMover _ ?_ ?_ ?_ ?_) <;> simp [hq]
      · exact (freed _).trans Moves.checkQuiet
    · split
      · refine .trans ?_ (Moves.takeFault _)
        split
        · exact (freed _).trans (Moves.freeTag _)
        · exact freed _
      · exact (freed _).trans Moves.checkQuiet
    · exact (left.trans (Moves.settlePiece _)).trans Moves.checkQuiet
    · exact ((left.trans Moves.dropPiece).trans (Moves.takeFault _)).trans Moves.checkQuiet
  · exact .refl

theorem Moves.inboundReplyStep : Moves i s s.inboundReplyStep := by
  unfold State.inboundReplyStep
  split
  · split
    · split
      · next o _ _ _ ok _ room =>
        have placed : Moves i s (s.placeReply (s.inboundReply o ok)) := Moves.placeReply _ room
        simp only
        split
        · exact (placed.trans (Moves.stageBuffer _ _)).trans Move.leaveInboundQueue.moves
        · exact placed.trans Move.leaveInboundQueue.moves
      · exact .refl
    · exact .refl
  · exact .refl

theorem Moves.inboundResult (r : MemResult) : Moves i s (s.inboundResult r) := by
  unfold State.inboundResult
  split
  · next o rest h =>
    have replying (ok : Bool) := (Move.replying (i := i) o rest ok h).moves
    simp only
    split
    · exact Move.leaveInboundQueue.moves
    · exact (replying true).trans Moves.inboundReplyStep
    · exact ((replying true).trans (Moves.stageBuffer _ _)).trans Moves.inboundReplyStep
    · exact ((replying false).trans (Moves.freeBuffer _)).trans Moves.inboundReplyStep
    · exact (replying false).trans Moves.inboundReplyStep
  · exact .refl

theorem Moves.handResult (who : Option Requester) (r : MemResult) : Moves i s (s.handResult who r) := by
  have raised : Moves i s (if r.failed then s.raise .memoryError else s) := by
    split
    · exact Moves.raise _
    · exact .refl
  unfold State.handResult
  split
  · exact .refl
  · simp only
    split
    · exact raised.trans (Moves.inboundResult r)
    · exact raised.trans (Moves.fetchResult r)
    · exact raised.trans (Moves.moverResult r)

theorem Moves.markGranted (r : Requester) : Moves i s (s.markGranted r) := by
  unfold State.markGranted
  split
  · refine Moves.shrinkMover _ ?_ ?_ ?_ ?_ <;> try simp
    cases hq : (s.mover _).queue <;> simp [markAtPort]
  · exact .refl

theorem Moves.grantMemory : Moves i s (grantMemory s) := by
  unfold Machine.grantMemory
  split
  · split
    · next r _ _ _ _ _ _ _ =>
      simp only
      split
      · exact .trans (.trans (Moves.markGranted _) (Moves.port _)) (Moves.handResult _ _)
      · refine .trans (Moves.markGranted r) ?_
        exact (Move.blocks _ _ _ _ _ _ _ _ _ _ _ le_rfl (.inl le_rfl) (.inl le_rfl) (.inl le_rfl) le_rfl).moves
    · exact .refl
  · exact .refl

theorem Moves.endOperation (p : PortOp) (r : MemResult)
    (hi : i = .memoryTimeout ∨ ∃ n a, i = .memoryAnswer n a) : Moves i s (s.endOperation p r) :=
  .trans (.trans (Move.memoryEffect p r hi).moves (Moves.port _)) (Moves.handResult _ _)

end Memory

/-! ### The movers' issues and the timers of the Tag Table -/

section Issues

variable {m : MoverId}

theorem Moves.placeRead (p : Piece) (b : BufNo) (t : Option TagNo) (free : s.pool[b] = .free)
    (low : b.val ≤ 5) (held : (s.mover m).buffersHeld < 4) (room : (s.mover m).queueRoom = true) :
    Moves i s (s.placeRead m p b t) := by
  have taken := (Move.takeBuffer (i := i) m b free low held).moves
  unfold State.placeRead
  rw [← State.setMover_setMover _ m { s.mover m with buffersHeld := (s.mover m).buffersHeld + 1 }]
  refine taken.trans (Moves.setMover _ ⟨.inr ?_, ?_, ?_, ?_⟩)
  · rw [List.length_append]
    exact Mover.queueRoom_iff.1 room
  all_goals simp [Mover.countIssue]

/-- The buffer at hand is FREE and a low one, and the mover holds fewer than 4 (R24, R108). -/
theorem State.bufferAtHand_spec {b : BufNo} (h : s.bufferAtHand m = some b) :
    (s.mover m).buffersHeld < 4 ∧ s.moverTakes b := by
  unfold State.bufferAtHand at h
  split at h
  · next held => exact ⟨held, s.moverBuffer_eq_some b |>.1 h⟩
  · cases h

theorem Moves.takeTag (t : TagNo) (ty : RequestType) (slot : Slot) (p : Piece) (free : s.tags[t] = .free) :
    Moves i s (s.takeTag m t ty slot p) :=
  (Move.takeTag t { origin := m, type := ty, slot := slot, ringAddr := p.remote, length := p.length
                    elemAddr := (s.mover m).currentAddr } free).moves

theorem Moves.issuePush : Moves i s (issuePush m s) := by
  unfold Machine.issuePush
  split
  · next b _ hb =>
    split
    · next room =>
      obtain ⟨held, ⟨free, -⟩, low, -⟩ := State.bufferAtHand_spec hb
      exact Moves.placeRead _ _ _ free low held room
    · exact .refl
  · exact .refl

@[simp] theorem State.takeTag_pool (t : TagNo) (ty : RequestType) (slot : Slot) (p : Piece) :
    (s.takeTag m t ty slot p).pool = s.pool := State.setMover_pool ..

theorem State.takeTag_mover (t : TagNo) (ty : RequestType) (slot : Slot) (p : Piece) :
    (s.takeTag m t ty slot p).mover m = { s.mover m with tagsHeld := (s.mover m).tagsHeld + 1 } :=
  State.mover_setMover_same ..

theorem Moves.issueTracked : Moves i s (issueTracked m s) := by
  unfold Machine.issueTracked
  split
  · next p x b t _ _ hb ht =>
    split
    · next room =>
      obtain ⟨held, ⟨free, -⟩, low, -⟩ := State.bufferAtHand_spec hb
      obtain ⟨-, tagFree, -⟩ := (s.grantTag_eq_some m t).1 ht
      refine .trans (Moves.takeTag t .ackedWrite x.slot p tagFree) (Moves.placeRead _ _ _ ?_ low ?_ ?_)
      · rw [State.takeTag_pool]; exact free
      · rw [State.takeTag_mover]; exact held
      · rw [State.takeTag_mover]; exact room
    · exact .refl
  · exact .refl

theorem Moves.issuePull : Moves i s (issuePull m s) := by
  unfold Machine.issuePull
  split
  · next p x t _ _ ht =>
    split
    · next room =>
      obtain ⟨-, tagFree, -⟩ := (s.grantTag_eq_some m t).1 ht
      refine .trans (.trans (Moves.takeTag t (.read p.cardAddr) x.slot p tagFree)
        (Moves.shrinkMover _ ?_ ?_ ?_ ?_)) (Moves.placeRequest _ ?_)
      any_goals simp [Mover.countIssue]
      simpa [State.requestRoom, State.takeTag] using room
    · exact .refl
  · exact .refl

theorem Moves.placeFilled : Moves i s (placeFilled m s) := by
  unfold Machine.placeFilled
  split
  · split
    · split
      · next h => exact Moves.placeWrite _ _ _ (Bool.and_eq_true_iff.1 h).1
      · exact .refl
    · exact .refl
  · exact .refl

theorem Moves.expireTag (t : TagNo) : Moves i s (expireTag t s) := by
  have expired (d : Time) (f : TagInfo) (e : Time) :
      Moves i s (((((s.reach d).dropTag t (.quarantined f e)).raise .tagExpired)).dropPiece f.origin) :=
    .trans (.trans (.trans (Moves.reach d) (Move.dropTag t _ rfl).moves) (Moves.raise _)) Moves.dropPiece
  unfold Machine.expireTag
  split
  · exact (expired _ _ _).trans (Moves.takeFault _)
  · exact (expired _ _ _).trans Moves.checkQuiet
  · exact .refl

theorem Moves.endQuarantine (t : TagNo) : Moves i s (endQuarantine t s) := by
  unfold Machine.endQuarantine
  split
  · next f e h =>
    refine .trans (Moves.reach e) ?_
    have unowned : (s.reach e).tags[t].owner = none := by rw [State.reach_tags, h]; rfl
    rw [← State.freeTag_of_unowned unowned]
    exact Moves.freeTag t
  · exact .refl

end Issues

/-! ### Inbound service -/

section Inbound

theorem Moves.nak (h : Header) (r : NakReason) : Moves i s (s.nak h r) := by
  unfold State.nak
  split
  · next room => exact .trans (Moves.placeReply _ room) Moves.endHandling
  · exact Moves.wait _

theorem Moves.refuse (h : Header) (r : NakReason) (w : Option WindowNo) : Moves i s (s.refuse h r w) :=
  .trans (.trans (Move.countRefused w).moves (Moves.raise _)) (Moves.nak _ _)

/-- The lookup accepts through an OPEN window only (R69). -/
theorem State.lookup_accepted_opened {source : Byte} {isWrite : Bool} {a b : Addr} {len : Nat} {w : WindowNo}
    (h : s.lookup source isWrite a len = .accepted w b) : s.windows[w].state = .opened := by
  unfold State.lookup at h
  split at h
  · cases h
  · split at h
    · cases h
    · next k hk =>
      simp only at h
      split at h
      · cases h
      · split at h
        · cases h
        · cases h
          exact (State.windowAt_eq_some_iff.1 hk).1.1

theorem Moves.tryAdmit (c : RxCell) (b : Option BufNo) : Moves i s (s.tryAdmit c b) := by
  rcases s.tryAdmit_cases c b with ⟨-, h⟩ | ⟨w, a, room, accepted, h⟩ | ⟨r, w, -, -, h⟩
  · rw [h]; exact Moves.wait _
  · rw [h]
    exact .trans (Move.enqueueInbound c b w a room (State.lookup_accepted_opened accepted)).moves
      Moves.endHandling
  · rw [h]
    refine .trans ?_ (Moves.refuse _ _ _)
    cases b with
    | none => exact .refl
    | some b => exact Moves.freeBuffer b

theorem Moves.tryBuffer (c : RxCell) : Moves i s (s.tryBuffer c) := by
  unfold State.tryBuffer
  split
  · next b h =>
    obtain ⟨⟨free, -⟩, -⟩ := (s.responderBuffer_eq_some b).1 h
    exact .trans (Move.responderTakes b free).moves (Moves.tryAdmit _ _)
  · exact Moves.wait _

theorem Moves.dispatchWrite (c : RxCell) : Moves i s (s.dispatchWrite c) := by
  unfold State.dispatchWrite
  split
  · split
    · exact Moves.tryAdmit _ _
    · exact Moves.refuse _ _ _
  · exact .trans (.trans (Moves.raise _) (Moves.raise _)) (Moves.nak _ _)

theorem Moves.dispatchRead (c : RxCell) : Moves i s (s.dispatchRead c) := by
  unfold State.dispatchRead
  split
  · exact Moves.tryBuffer _
  · exact Moves.refuse _ _ _

theorem Moves.placeData (m : MoverId) (a r : Addr) (c : RxCell) (room : (s.mover m).queueRoom = true) :
    Moves i s (s.placeData m a r c) := by
  refine Moves.setMover _ ⟨.inr ?_, rfl, rfl, .rfl⟩
  rw [List.length_append]
  exact Mover.queueRoom_iff.1 room

theorem Moves.takeData (m : MoverId) (a r : Addr) (c : RxCell) : Moves i s (s.takeData m a r c) := by
  unfold State.takeData
  split
  · next room => exact .trans (Moves.placeData _ _ _ _ room) Moves.endHandling
  · refine .trans (Moves.shrinkMover _ ?_ ?_ ?_ ?_) (Moves.wait _) <;> simp

theorem Moves.waitingResponse (t : TagNo) (f : TagInfo) (k : Kind) (c : RxCell) :
    Moves i s (s.waitingResponse t f k c) := by
  have freed : Moves i s (s.freeTag t) := Moves.freeTag t
  have given (r : FaultRecord) :
      Moves i s ((((s.freeTag t).endHandling).dropPiece f.origin).takeFault f.origin r) :=
    ((freed.trans Moves.endHandling).trans Moves.dropPiece).trans (Moves.takeFault _)
  unfold State.waitingResponse
  simp only
  split
  · split
    · exact given _
    · split
      · exact freed.trans (Moves.takeData _ _ _ _)
      · exact given _
  · exact (freed.trans Moves.endHandling).trans (Moves.settlePiece _)
  · exact given _

theorem Moves.checkedData (k : Kind) (c : RxCell) : Moves i s (s.checkedData k c) :=
  (Move.blocks _ _ _ _ _ _ _ _ _ _ _ le_rfl (.inl le_rfl) (.inl le_rfl) (.inl le_rfl) le_rfl).moves

theorem Moves.tagResponse (k : Kind) (c : RxCell) : Moves i s (s.tagResponse k c) := by
  unfold State.tagResponse
  rw [State.checkedData_eq]
  refine .trans (Moves.checkedData k c) ?_
  simp only
  split
  · exact .trans (Moves.raise _) Moves.endHandling
  · split
    · split
      · exact Moves.waitingResponse _ _ _ _
      · exact .trans (.trans (.trans (Moves.freeTag _) Moves.dropPiece) Moves.endHandling) Moves.checkQuiet
      · exact .trans (.trans (Moves.freeTag _) (Moves.raise _)) Moves.endHandling
      · exact .refl
    · exact .trans (Moves.raise _) Moves.endHandling

theorem Moves.untrackedResponse (k : Kind) (c : RxCell) : Moves i s (s.untrackedResponse k c) := by
  unfold State.untrackedResponse
  rw [State.checkedData_eq]
  refine .trans (.trans (Moves.checkedData k c) Moves.endHandling) ?_
  simp only
  split
  · split
    · exact Moves.takeFault _
    · exact Moves.raise _
  · exact Moves.raise _

theorem Moves.dispatchResponse (k : Kind) (c : RxCell) : Moves i s (s.dispatchResponse k c) := by
  unfold State.dispatchResponse
  split
  · exact Moves.untrackedResponse k c
  · exact Moves.tagResponse k c

theorem Moves.dispatchMgmt (c : RxCell) : Moves i s (s.dispatchMgmt c) := by
  unfold State.dispatchMgmt
  split
  · split
    · exact Moves.endHandling
    · exact Moves.wait _
  · exact .trans (Moves.raise _) Moves.endHandling

theorem Moves.dispatch : Moves i s (dispatch s) := by
  have discarded (e : Event) : Moves i s (s.raise e).endHandling := .trans (Moves.raise e) Moves.endHandling
  unfold Machine.dispatch
  split
  · split
    · exact Moves.dispatchWrite _
    · exact Moves.dispatchRead _
    · exact Moves.dispatchResponse _ _
    · exact Moves.dispatchResponse _ _
    · exact Moves.dispatchResponse _ _
    · exact Moves.dispatchMgmt _
    all_goals exact discarded _
  · exact .refl

theorem Moves.placeNak : Moves i s (placeNak s) := by
  unfold Machine.placeNak
  split
  · exact Moves.nak _ _
  · exact .refl

theorem Moves.takeResponderBuffer : Moves i s (takeResponderBuffer s) := by
  unfold Machine.takeResponderBuffer
  split
  · exact Moves.tryBuffer _
  · exact .refl

theorem Moves.admission : Moves i s (admission s) := by
  unfold Machine.admission
  split
  · exact Moves.tryAdmit _ _
  · exact .refl

theorem Moves.placePendingWrite : Moves i s (placePendingWrite s) := by
  unfold Machine.placePendingWrite
  split
  · split
    · next room =>
      refine .trans (.trans (Moves.placeData _ _ _ _ room) (Moves.shrinkMover _ ?_ ?_ ?_ ?_))
        Moves.endHandling <;> simp
    · exact .refl
  · exact .refl

end Inbound

/-! ### The Ring Port -/

section Ring

theorem Moves.setLink (l : Link) : Moves i s (s.setLink l) := by
  unfold State.setLink
  split
  · exact .refl
  · exact .trans (Moves.ring l _ _ le_rfl) (Moves.raise _)

theorem Moves.orphanNotice (h : Header) (k : Kind) : Moves i s (s.orphanNotice h k) := by
  unfold State.orphanNotice
  split
  · exact .refl
  · split
    · split
      · exact .trans (.trans (Moves.freeTag _) Moves.dropPiece) (Moves.takeFault _)
      · exact .trans (.trans (Moves.freeTag _) Moves.dropPiece) Moves.checkQuiet
      · exact Moves.freeTag _
      · exact .refl
    · exact .refl

theorem Moves.untrackedOrphan (h : Header) : Moves i s (s.untrackedOrphan h) := by
  unfold State.untrackedOrphan
  split
  · simp only
    split
    · exact Moves.takeFault _
    · exact .refl
  · exact .refl

theorem Moves.orphan (h : Header) : Moves i s (s.orphan h) := by
  unfold State.orphan
  refine .trans (Moves.raise .cellDropped) ?_
  simp only
  split
  · exact Moves.orphanNotice _ _
  · split
    · exact Moves.orphanNotice _ _
    · exact Moves.untrackedOrphan _
  · exact .refl

theorem State.ready_iff : s.ready = true ↔
    s.ring.link = .up ∧ s.ring.transit.length < 4 ∧ s.inbound.queue.length < 8 := by
  unfold State.ready
  simp only [Bool.and_eq_true, decide_eq_true_eq, and_assoc]
  exact .rfl

theorem Moves.dispose (frame : List Byte) (bad : Bool) (hi : ∃ frame bad, i = .cellReceived frame bad)
    (ready : s.ready = true) : Moves i s (s.dispose frame bad) := by
  obtain ⟨-, room⟩ := State.ready_iff.1 ready
  unfold State.dispose
  simp only
  split
  · exact Moves.raise _
  · split
    · refine Moves.inbound _ (.inr ?_)
      rw [List.length_append]
      exact room.2
    · split
      · exact Moves.orphan _
      · split
        · exact Moves.raise _
        · exact (Move.appendTransit _ hi room.1).moves

theorem Moves.sendLocal : Moves i s s.sendLocal := by
  have sent (b : Option BufNo) (h : Header) (u : State) : Moves i u (u.sendBuffer b h) := by
    unfold State.sendBuffer
    split
    · exact Moves.stageBuffer _ _
    · exact .refl
  unfold State.sendLocal
  split
  · next h =>
    exact .trans (.trans (Moves.replies _ (.inl (by simp [h]))) (sent _ _ _)) (Moves.ring _ 0 _ (Nat.zero_le _))
  · next h =>
    exact .trans (.trans (Moves.requests _ (.inl (by simp [h]))) (sent _ _ _)) (Moves.ring _ 0 _ (Nat.zero_le _))
  · exact .refl

theorem Moves.choose (hi : ∃ r, i = .ringOutChoice r ∨ i = .cellFinished r) : Moves i s s.choose := by
  unfold State.choose
  split
  · next f rest h =>
    split
    · next may =>
      refine (Move.popTransit f rest _ hi h ?_).moves
      by_cases waiting : s.localWaiting = true
      · have below := may.resolve_left (by simp [waiting])
        rw [if_pos waiting]
        exact .inr below
      · rw [if_neg waiting]
        exact .inl le_rfl
    · exact Moves.sendLocal
  · exact Moves.sendLocal

theorem Moves.finishWrite (c : RequestCell) (b : BufNo) : Moves i s (s.finishWrite c b) := by
  have freed : Moves i s (if s.pool[b].sendingNow then s.freeBuffer b else s) := by
    split
    · exact Moves.freeBuffer b
    · exact .refl
  unfold State.finishWrite
  simp only
  split
  · exact (freed.trans (Move.startDeadline _).moves).trans Moves.checkQuiet
  · split
    · exact .trans (.trans (Moves.freeBuffer b) (Moves.settlePiece _)) Moves.checkQuiet
    · exact .refl

theorem Moves.finishRequest (c : RequestCell) : Moves i s (s.finishRequest c) := by
  unfold State.finishRequest
  split
  · exact Moves.finishWrite _ _
  · split
    · exact (Move.startDeadline _).moves
    · exact .refl

theorem Moves.finishReply (c : ReplyCell) : Moves i s (s.finishReply c) := by
  unfold State.finishReply
  split
  · split
    · exact Moves.freeBuffer _
    · exact .refl
  · exact .refl

theorem Moves.finishCell (first : Bool) (hi : ∃ r, i = .cellFinished r) : Moves i s (finishCell first s) := by
  unfold Machine.finishCell
  split
  · refine .trans (Moves.ring s.ring.link s.ring.passCounter none le_rfl) ?_
    simp only
    split
    · exact .refl
    · split
      · exact .refl
      · exact Moves.finishRequest _
      · split
        · refine .trans ?_ (Move.nodeReset hi).moves
          split
          · exact Moves.choose (hi.imp fun _ h => .inr h)
          · exact .refl
        · exact Moves.finishReply _
  · exact .refl

end Ring

/-! ### The Management Unit and the Event Unit -/

section Management

variable {c : RxCell}

/-- The unit's own fields, none of which another block counts. -/
theorem Moves.mgmt (g : Mgmt) (hp : g.params = s.mgmt.params) (hd : g.deferred = s.mgmt.deferred)
    (hc : s.mgmt.claim = .unclaimed → g.claim = .unclaimed) : Moves i s { s with mgmt := g } :=
  (Move.mgmt g hp hd hc).moves

theorem Moves.sendReply (r : StoredReply) (reset : Bool) : Moves i s (s.sendReply c r reset) :=
  Moves.mgmt _ rfl rfl id

theorem Moves.restartLapse : Moves i s s.restartLapse := Moves.mgmt _ rfl rfl id

/-- The answer does not defer the command. -/
def Answer.immediate : Answer → Prop
  | .defer _ => False
  | .reply _ _ | .released | .resetting => True

/-- The end of an execution that does not defer the command. -/
theorem Moves.conclude (a : Answer) (h : a.immediate := by trivial) : Moves i s (s.conclude c a) := by
  cases a with
  | defer what => exact h.elim
  | reply | released | resetting => exact Moves.mgmt _ rfl rfl id

/-- The deferred context of the command in cell `c` (R163). -/
def RxCell.deferral (c : RxCell) (what : DeferTarget) : Deferred :=
  { target := what, seq := c.header.seq, sender := c.header.source, origin := c.header.origin
    tag := c.header.tag }

theorem Moves.execute {entry : Entry} (none_deferred : s.mgmt.deferred = none)
    (he : ∀ u : State, u.mgmt.deferred = none → Moves i u ((entry c u).1.conclude c (entry c u).2)) :
    Moves i s (s.execute c entry) := by
  unfold State.execute
  split
  · exact Moves.conclude _
  · split
    · exact Moves.conclude _
    · exact he s none_deferred

theorem Claim.renew_unclaimed (x : Claim) (h : x = .unclaimed) : x.renew = .unclaimed := by rw [h]; rfl

theorem Moves.handleManager {entry : Entry}
    (he : ∀ u : State, u.mgmt.deferred = none → Moves i u ((entry c u).1.conclude c (entry c u).2)) :
    Moves i s (s.handleManager c entry) := by
  unfold State.handleManager
  refine .trans (.trans (Moves.mgmt { s.mgmt with claim := s.mgmt.claim.renew } rfl rfl
    (Claim.renew_unclaimed _)) ?_) Moves.restartLapse
  simp only
  split
  · split
    · exact .refl
    · exact Moves.sendReply _ _
  · next hd =>
    split
    · split
      · exact Moves.sendReply _ _
      · exact Moves.execute hd he
    · exact Moves.execute hd he

/-- What the taking of a cell is made of, when its entry and its answer to a non-manager are made of moves. -/
theorem Moves.takeMgmt {want : Option Command} {entry : Entry} {stranger : Stranger}
    (he : ∀ (c : RxCell) (u : State), u.mgmt.deferred = none →
      Moves i u ((entry c u).1.conclude c (entry c u).2))
    (hs : ∀ (c : RxCell) (u : State), Moves i u (stranger c u)) :
    Moves i s (s.takeMgmt want entry stranger) := by
  unfold State.takeMgmt
  split
  · split
    · split
      · exact Moves.endHandling
      · split
        · exact .refl
        · refine .trans Moves.endHandling ?_
          unfold State.handleCell
          split
          · exact .refl
          · split
            · exact Moves.handleManager (he _)
            · exact hs _ _
    · exact .refl
  · exact .refl

theorem Moves.notManager : Moves i s (notManager c s) := Moves.sendReply _ _

theorem Moves.openToAll {body : Stranger} (h : Moves i s (body c s)) : Moves i s (openToAll body c s) := by
  unfold Machine.openToAll
  split
  · exact Moves.sendReply _ _
  · split
    · exact Moves.sendReply _ _
    · exact h

theorem Moves.claimStranger : Moves i s (claimStranger c s) := by
  have accepted (takeover : Bool) : Moves i s (s.claimAccepted c takeover) :=
    .trans (.trans (Move.acceptClaim _ takeover).moves (Moves.conclude (.reply .ok []))) Moves.restartLapse
  refine Moves.openToAll ?_
  split
  · exact accepted _
  · exact accepted _
  · exact Moves.sendReply _ _

/-- An entry that changes nothing, or makes moves, and does not defer. -/
theorem Moves.answer {t : State} {a : Answer} (h : Moves i s t) (ha : a.immediate := by trivial) :
    Moves i s (t.conclude c a) :=
  h.trans (Moves.conclude a ha)

theorem Moves.releaseEntry : Moves i s ((releaseEntry c s).1.conclude c (releaseEntry c s).2) :=
  Moves.answer (.trans (Moves.mgmt { s.mgmt with
    claim := .unclaimed, lastSeq := none, stored := none, lapseTimer := none } rfl rfl fun _ => rfl)
    (Move.attentionToIdle rfl).moves)

theorem Moves.setParamsEntry (hi : i = .setParams) :
    Moves i s ((setParamsEntry c s).1.conclude c (setParamsEntry c s).2) := by
  unfold Machine.setParamsEntry
  simp only
  split
  · exact Moves.answer .refl
  · split
    · exact Moves.answer .refl
    · next invalid =>
      split
      · exact Moves.answer .refl
      · exact Moves.answer (Move.applyParams _ (by simpa using invalid) hi).moves

theorem Moves.windowOpenEntry : Moves i s ((windowOpenEntry c s).1.conclude c (windowOpenEntry c s).2) := by
  unfold Machine.windowOpenEntry
  split
  · exact Moves.answer .refl
  · simp only
    split
    · exact Moves.answer .refl
    · split
      · exact Moves.answer .refl
      · next closed =>
        split
        · exact Moves.answer .refl
        · next free =>
          refine Moves.answer (Move.openWindow _ _ (by simpa [Window.active] using closed) rfl rfl ?_).moves
          intro j active
          simp only [List.any_eq_true, not_exists, not_and, Bool.and_eq_true, Vector.mem_toList_iff] at free
          have := free s.windows[j] (Vector.getElem_mem j.isLt) (by simpa [Window.active] using active)
          simpa using this

theorem Moves.windowCloseEntry (hd : s.mgmt.deferred = none) :
    Moves i s ((windowCloseEntry c s).1.conclude c (windowCloseEntry c s).2) := by
  unfold Machine.windowCloseEntry
  split
  · exact Moves.answer .refl
  · next k _ =>
    simp only
    split
    · next opened =>
      split
      · next none_left => exact Moves.answer (Move.closeWindow k opened none_left).moves
      · exact .trans (Move.drainWindow k (c.deferral (.windowClose k)) opened hd rfl).moves (Moves.mgmt _ rfl rfl id)
    all_goals exact Moves.answer .refl

theorem Moves.moverStartEntry : Moves i s ((moverStartEntry c s).1.conclude c (moverStartEntry c s).2) := by
  unfold Machine.moverStartEntry
  split
  · exact Moves.answer .refl
  · simp only
    split
    · exact Moves.answer .refl
    · split
      · exact Moves.answer .refl
      · next idle =>
        refine Moves.answer (.trans (Moves.shrinkMover _ ?_ ?_ ?_ ?_) (Moves.requestFetch _)) <;>
          simp [not_not.1 idle]

theorem Moves.stopMover {m : MoverId} {t : State} (h : s.stopMover m = some t) : Moves i s t := by
  unfold State.stopMover at h
  simp only at h
  split at h
  · next hs =>
    cases h
    refine .trans (Moves.shrinkMover _ ?_ ?_ ?_ ?_) Moves.discardLookAhead <;> simp [hs]
  · next hs =>
    have stopped : Moves i s
        ((s.setMover m { s.mover m with state := .stopping .fetch }).withdrawFetch m) := by
      refine .trans (Moves.shrinkMover _ ?_ ?_ ?_ ?_) Moves.withdrawFetch <;> simp [hs]
    split at h
    · cases h
      exact stopped
    · cases h
      refine stopped.trans (Moves.endList _ ?_)
      cases m <;> simp [State.withdrawFetch, State.setMover, State.mover]
  · next hs =>
    cases h
    exact Moves.endList _ (by simp [hs])
  · cases h
    exact .refl
  all_goals cases h

theorem Moves.moverStopEntry : Moves i s ((moverStopEntry c s).1.conclude c (moverStopEntry c s).2) := by
  unfold Machine.moverStopEntry
  split
  · exact Moves.answer .refl
  · split
    · next h => exact Moves.answer (Moves.stopMover h)
    · exact Moves.answer .refl

theorem Moves.moverResumeEntry : Moves i s ((moverResumeEntry c s).1.conclude c (moverResumeEntry c s).2) := by
  unfold Machine.moverResumeEntry
  split
  · exact Moves.answer .refl
  · split
    · next hs _ => exact Moves.answer (Moves.completeElement _ (by simp [hs]))
    · exact Moves.answer .refl

/-- No command is deferred after a withdrawal that was not before. -/
theorem State.withdraw_deferred (m : MoverId) : (s.withdraw m).mgmt.deferred = s.mgmt.deferred := by
  obtain ⟨_, _, _, _, _, _, _, h⟩ := (GivesUp.withdraw s m).frame
  rw [h]

/-- With no command deferred there is no completion to report. -/
theorem State.reportCompletion_none (h : s.mgmt.deferred = none) (d : DeferTarget) :
    s.reportCompletion d = s := by
  simp only [State.reportCompletion, h]

theorem Moves.abortMover (m : MoverId) (hd : s.mgmt.deferred = none) :
    Moves i s ((s.abortMover m).1.conclude c (s.abortMover m).2) := by
  have withdrawn : Moves i s (if (s.mover m).state = .faulting then s else s.withdraw m) := by
    split
    · exact .refl
    · exact Moves.withdraw
  have none_deferred : (if (s.mover m).state = .faulting then s else s.withdraw m).mgmt.deferred = none := by
    split
    · exact hd
    · rw [State.withdraw_deferred, hd]
  unfold State.abortMover
  simp only
  generalize (if (s.mover m).state = .faulting then s else s.withdraw m) = u at withdrawn none_deferred
  refine withdrawn.trans ?_
  split
  · refine Moves.answer ?_
    rw [State.setMover_setMover, State.mover_setMover_same]
    by_cases hs : (u.mover m).state = .aborting
    · have ended := (Move.endAbort (i := i) m hs).moves
      rwa [State.reportCompletion_none (by rwa [State.setMover_mgmt])] at ended
    · exact Moves.rest .idle none (by simp) hs
  · refine .trans (Move.deferAbort m (c.deferral (.moverAbort m)) none none_deferred rfl).moves ?_
    cases m <;> exact Moves.mgmt _ rfl rfl id

theorem Moves.moverAbortEntry (hd : s.mgmt.deferred = none) :
    Moves i s ((moverAbortEntry c s).1.conclude c (moverAbortEntry c s).2) := by
  unfold Machine.moverAbortEntry
  split
  · exact Moves.answer .refl
  · simp only
    split
    · exact Moves.answer .refl
    · next hs =>
      refine Moves.answer (Moves.shrinkMover _ ?_ ?_ ?_ ?_) <;> simp [hs]
    all_goals exact Moves.abortMover _ hd

theorem Moves.moverClearEntry : Moves i s ((moverClearEntry c s).1.conclude c (moverClearEntry c s).2) := by
  unfold Machine.moverClearEntry
  split
  · exact Moves.answer .refl
  · simp only
    split
    · next hs =>
      refine Moves.answer (Moves.shrinkMover _ ?_ ?_ ?_ ?_) <;> simp [hs]
    · exact Moves.answer .refl

theorem Moves.windowQueryEntry :
    Moves i s ((windowQueryEntry c s).1.conclude c (windowQueryEntry c s).2) := by
  unfold Machine.windowQueryEntry
  split <;> exact Moves.answer .refl

theorem Moves.moverQueryEntry : Moves i s ((moverQueryEntry c s).1.conclude c (moverQueryEntry c s).2) := by
  unfold Machine.moverQueryEntry
  split <;> exact Moves.answer .refl

theorem Moves.lapseClaim : Moves i s (lapseClaim s) := by
  unfold Machine.lapseClaim
  split
  · next hc _ => exact .trans (Moves.reach _) (Moves.mgmt _ rfl rfl fun h => by simp [hc] at h)
  · exact .refl

theorem Moves.placeMgmtReply (which : ReplySource) : Moves i s (placeMgmtReply which s) := by
  unfold Machine.placeMgmtReply
  split
  · next room =>
    split
    · exact .trans (Moves.mgmt { s.mgmt with replyLast := none } rfl rfl id) (Moves.placeReply _ room)
    · exact .trans (Moves.mgmt { s.mgmt with replyDeferred := none } rfl rfl id) (Moves.placeReply _ room)
    · exact .refl
  · exact .refl

theorem Moves.repeatAttention : Moves i s (repeatAttention s) := by
  unfold Machine.repeatAttention
  split
  · next t sent _ => exact .trans (Moves.reach t) (Move.attn (s := s.reach t) _ _ (.inl sent)).moves
  · exact .refl

theorem Moves.placeAttn : Moves i s (placeAttn s) := by
  unfold Machine.placeAttn
  split
  · split
    · next room => exact .trans (Move.attn _ _ (.inr ⟨rfl, rfl⟩)).moves (Moves.placeReply _ room)
    · exact .refl
  · exact .refl

end Management

/-! ### Every command -/

/-- A command that answers a state has made moves alone. -/
theorem exec_moves {t : State} (h : exec i s = .next t) : Moves i s t := by
  have ended {u : State} (hu : Moves i s u) (hf : (Host.Outcome.next u.finish : Result) = .next t) :
      Moves i s t := by
    cases hf
    exact hu.trans Move.finish.moves
  have plain {u : State} (hu : Moves i s u) (hf : (Host.Outcome.next u : Result) = .next t) : Moves i s t := by
    cases hf
    exact hu
  have managed {want : Option Command} {entry : Entry} {stranger : Stranger}
      (he : ∀ (c : RxCell) (u : State), u.mgmt.deferred = none →
        Moves i u ((entry c u).1.conclude c (entry c u).2))
      (hs : ∀ (c : RxCell) (u : State), Moves i u (stranger c u))
      (hf : (Host.Outcome.next (s.takeMgmt want entry stranger).finish : Result) = .next t) : Moves i s t :=
    ended (Moves.takeMgmt he hs) hf
  have refused (c : RxCell) (u : State) : Moves i u (notManager c u) := Moves.notManager
  cases i with
  | hardReset pins => exact plain (Move.hardReset pins rfl).moves h
  | linkUp => exact ended (Moves.setLink _) h
  | linkDown => exact ended (Moves.setLink _) h
  | cellReceived frame bad =>
    simp only [exec, execCellReceived] at h
    split at h
    · exact plain .refl h
    · split at h
      · next ready => exact ended (Moves.dispose frame bad ⟨_, _, rfl⟩ ready) h
      · cases h
  | ringOutChoice ready =>
    refine plain (u := ringOutChoice ready s) ?_ h
    unfold ringOutChoice
    split
    · exact Moves.choose ⟨_, .inl rfl⟩
    · exact .refl
  | cellFinished first => exact ended (Moves.finishCell first ⟨_, rfl⟩) h
  | dispatchCell => exact ended Moves.dispatch h
  | dispatcherNakPlaced => exact plain Moves.placeNak h
  | responderBufferTaken => exact ended Moves.takeResponderBuffer h
  | inboundAdmission => exact ended Moves.admission h
  | moverQueueWritePlaced => exact plain Moves.placePendingWrite h
  | imqReplyPlaced => exact plain Moves.inboundReplyStep h
  | memoryGrant => exact ended Moves.grantMemory h
  | memoryAnswer n answer =>
    refine ended (u := answerMemory n answer s) ?_ h
    unfold answerMemory
    split
    · split
      · split
        · exact Moves.endOperation _ _ (.inr ⟨_, _, rfl⟩)
        · exact .refl
      · exact .refl
    · exact .refl
  | memoryTimeout =>
    refine ended (u := timeoutMemory s) ?_ h
    unfold timeoutMemory
    split
    · exact .trans (Moves.reach _) (Moves.endOperation _ _ (.inl rfl))
    · exact .refl
  | pushPieceIssue m => exact plain Moves.issuePush h
  | trackedPieceIssue m => exact plain Moves.issueTracked h
  | pullPieceIssue m => exact plain Moves.issuePull h
  | pushWritePlaced m => exact plain Moves.placeFilled h
  | tagDeadlineExpiry n => exact ended (Moves.expireTag n) h
  | tagQuarantineEnd n => exact plain (Moves.endQuarantine n) h
  | claimLapse => exact plain Moves.lapseClaim h
  | mgmtReplyPlaced which => exact plain (Moves.placeMgmtReply which) h
  | attentionRepeat => exact plain Moves.repeatAttention h
  | attnPlaced => exact plain Moves.placeAttn h
  | claim =>
    exact managed (fun _ _ _ => Moves.answer Move.claimReport.moves) (fun _ _ => Moves.claimStranger) h
  | release => exact managed (fun _ _ _ => Moves.releaseEntry) refused h
  | readStatus =>
    exact managed (fun _ _ _ => Moves.answer .refl)
      (fun _ _ => Moves.openToAll (Moves.sendReply _ _)) h
  | readEvents => exact managed (fun _ _ _ => Moves.answer Move.clearEvents.moves) refused h
  | setParams => exact managed (fun _ _ _ => Moves.setParamsEntry rfl) refused h
  | windowOpen => exact managed (fun _ _ _ => Moves.windowOpenEntry) refused h
  | windowClose => exact managed (fun _ _ hd => Moves.windowCloseEntry hd) refused h
  | windowQuery => exact managed (fun _ _ _ => Moves.windowQueryEntry) refused h
  | moverStart => exact managed (fun _ _ _ => Moves.moverStartEntry) refused h
  | moverStop => exact managed (fun _ _ _ => Moves.moverStopEntry) refused h
  | moverResume => exact managed (fun _ _ _ => Moves.moverResumeEntry) refused h
  | moverAbort => exact managed (fun _ _ hd => Moves.moverAbortEntry hd) refused h
  | moverClear => exact managed (fun _ _ _ => Moves.moverClearEntry) refused h
  | moverQuery => exact managed (fun _ _ _ => Moves.moverQueryEntry) refused h
  | nodeReset => exact managed (fun _ _ _ => Moves.answer .refl) refused h
  | unknownCommand => exact managed (fun _ _ _ => Moves.answer .refl) refused h

/-- What every move keeps, whatever the queue of commands and the time, every step keeps. -/
theorem step_keeps {P : State → Prop} (keep : ∀ i s t, Move i s t → P s → P t)
    (frame : ∀ (s : State) (rest : List Instr) (now : Time), P s → P { s with pending := rest, now := now })
    {s t : State} (h : step s = .next t) (hs : P s) : P t := by
  unfold step at h
  split at h
  · next c rest _ => exact (exec_moves h).keep (keep c) (frame s rest s.now hs)
  · cases h
    exact frame s s.pending _ hs

end Sys2Proof.Machine
end

section
/-! Every step keeps the windows disjoint, their in-flight counts true and the Inbound Memory Queue's stages (R67,
R72, R91), and the deferred command's target true (R43, R76, R163). -/

namespace Sys2Proof.Machine

variable {i : Instr} {s t : State}

/-! ### What the shared operations come to -/

/-- Freeing a buffer: a mover that held it counts one less (R109). -/
theorem State.freeBuffer_cases (s : State) (b : BufNo) :
    (∃ m st, s.pool[b] = .held (.mover m) st ∧ s.freeBuffer b = (s.setBuffer b .free).setMover m
        { s.mover m with buffersHeld := (s.mover m).buffersHeld - 1 })
      ∨ (s.pool[b].holdingMover = none ∧ s.freeBuffer b = s.setBuffer b .free) := by
  unfold State.freeBuffer
  split
  · next m st h => exact .inl ⟨m, st, h, rfl⟩
  · next h =>
    refine .inr ⟨?_, rfl⟩
    rcases hb : s.pool[b] with _ | ⟨_ | _, st⟩
    · rfl
    · exact absurd hb (h _ st)
    · rfl

/-- A tag leaves its entry: an owner counts one less. -/
theorem State.dropTag_cases (s : State) (t : TagNo) (x : Tag) :
    (∃ m, s.tags[t].owner = some m ∧ s.dropTag t x = (s.setTag t x).setMover m
        { s.mover m with tagsHeld := (s.mover m).tagsHeld - 1 })
      ∨ (s.tags[t].owner = none ∧ s.dropTag t x = s.setTag t x) := by
  unfold State.dropTag
  split
  · next m h => exact .inl ⟨m, h, rfl⟩
  · next h => exact .inr ⟨h, rfl⟩

/-- A new stage keeps the holder (R107). -/
theorem State.stageBuffer_cases (s : State) (b : BufNo) (st : BufStage) :
    s.stageBuffer b st = s
      ∨ ∃ h old, s.pool[b] = .held h old ∧ s.stageBuffer b st = s.setBuffer b (.held h st) := by
  unfold State.stageBuffer
  split
  · next h old hb => exact .inr ⟨h, old, hb, rfl⟩
  · exact .inl rfl

/-- The report of a completion ends the deferred command that it names, and otherwise changes nothing. -/
theorem State.reportCompletion_cases (s : State) (what : DeferTarget) :
    (s.mgmt.deferred.map (·.target) ≠ some what ∧ s.reportCompletion what = s)
      ∨ (s.mgmt.deferred.map (·.target) = some what
        ∧ ∃ st r, s.reportCompletion what =
          { s with mgmt := { s.mgmt with deferred := none, stored := st, replyDeferred := r } }) := by
  unfold State.reportCompletion
  split
  · next d hd =>
    split
    · next ht => exact .inr ⟨by simp [hd, ht], _, _, rfl⟩
    · next ht => exact .inl ⟨by simpa [hd] using ht, rfl⟩
  · next hd => exact .inl ⟨by simp [hd], rfl⟩

theorem State.countRefused_cases (s : State) (w : Option WindowNo) :
    s.countRefused w = s ∨ ∃ k : WindowNo, s.countRefused w =
      s.setWindow k { s.windows[k] with refused := s.windows[k].refused + 1 } := by
  cases w with
  | none => exact .inl rfl
  | some k => exact .inr ⟨k, rfl⟩

/-- A mover's record after one record is set. -/
theorem State.mover_setMover (s : State) (m k : MoverId) (v : Mover) :
    (s.setMover m v).mover k = if k = m then v else s.mover k := by
  by_cases h : k = m
  · rw [h, if_pos rfl, State.mover_setMover_same]
  · rw [if_neg h, State.mover_setMover_other _ _ _ _ h]

/-- An entry of the Window Table after one entry is set. -/
theorem State.window_setWindow (s : State) (k j : WindowNo) (v : Window) :
    (s.setWindow k v).windows[j] = if j = k then v else s.windows[j] := by
  by_cases h : j = k
  · rw [h, if_pos rfl, State.getWindow_setWindow]
  · rw [if_neg h, State.getWindow_setWindow_other _ _ _ _ h]

/-- The Management Unit's claim and parameters, and the Event Unit, are all that the taking of an occurrence or a
report of the Event Unit reads; they change the Event Unit alone. -/
theorem State.claimReport_frame (s : State) : ∃ u, s.claimReport = { s with events := u } :=
  ⟨_, s.attentionToIdle.testAttention_frame⟩

theorem State.clearEvents_frame (s : State) : ∃ u, s.clearEvents = { s with events := u } :=
  ⟨_, State.testAttention_frame _⟩

theorem State.acceptClaim_frame (s : State) (m : Slot) (takeover : Bool) :
    ∃ u k, s.acceptClaim m takeover =
      { s with mgmt := { s.mgmt with claim := .claimed m }, events := u, free := k } := by
  have report (u : State) := u.claimReport_frame
  have taken (u : State) := u.takeOccurrence_frame .claimChange
  unfold State.acceptClaim
  simp only
  split
  · split
    · obtain ⟨u, hu⟩ := taken { s with mgmt := { s.mgmt with claim := .claimed m }, free := s.free + 1 }
      obtain ⟨w, hw⟩ :=
        report { s with mgmt := { s.mgmt with claim := .claimed m }, free := s.free + 1, events := u }
      exact ⟨w, s.free + 1, by rw [hu, hw]⟩
    · obtain ⟨u, hu⟩ := report { s with mgmt := { s.mgmt with claim := .claimed m }, free := s.free + 1 }
      obtain ⟨w, hw⟩ :=
        taken { s with mgmt := { s.mgmt with claim := .claimed m }, free := s.free + 1, events := u }
      exact ⟨w, s.free + 1, by rw [hu, hw]⟩
  · obtain ⟨u, hu⟩ := report { s with mgmt := { s.mgmt with claim := .claimed m } }
    exact ⟨u, s.free, hu⟩

/-- SET_PARAMS applied changes the parameters and the Event Unit. -/
theorem State.applyParams_frame (s : State) (f : ParamFields) :
    ∃ u, s.applyParams f =
      { s with mgmt := { s.mgmt with params := f.apply s.mgmt.params }, events := u } := by
  have repeated (u : State) (changed : Bool) : ∃ e, u.repeatTaken changed = { u with events := e } := by
    unfold State.repeatTaken
    split <;> exact ⟨_, rfl⟩
  have masked (u : State) (present : Bool) : ∃ e, u.maskTaken present = { u with events := e } := by
    unfold State.maskTaken
    split
    · exact ⟨_, u.testAttention_frame⟩
    · exact ⟨_, rfl⟩
  unfold State.applyParams
  obtain ⟨e, he⟩ := repeated { s with mgmt := { s.mgmt with params := f.apply s.mgmt.params } }
    (repeatChanged s.mgmt.params.attentionRepeat f.attentionRepeat)
  obtain ⟨u, hu⟩ := masked _ _
  exact ⟨u, (congrArg (·.maskTaken f.eventMask.isSome) he).trans hu⟩

/-! ### Moves that leave the windows and the Inbound Memory Queue -/

/-- The window table and the Inbound Memory Queue are as they were. -/
def SameInbound (s t : State) : Prop := t.windows = s.windows ∧ t.imq = s.imq

theorem SameInbound.setMover (m : MoverId) (v : Mover) : SameInbound s (s.setMover m v) :=
  ⟨s.setMover_windows m v, s.setMover_imq m v⟩

theorem SameInbound.of_moverActs (h : MoverActs s t) : SameInbound s t := by
  obtain ⟨⟨_, _, _, _, _, _, _, _, _, _, _, rfl⟩, -⟩ := h
  exact ⟨rfl, rfl⟩

/-! ### The windows (R67, R72, R91) -/

/-- What every step keeps of the windows and the Inbound Memory Queue. -/
def State.windowsSound (s : State) : Prop := s.windowsDisjoint ∧ s.inFlightTrue ∧ s.inboundStaged

theorem State.windowsSound.of_same (hs : s.windowsSound) (h : SameInbound s t) : t.windowsSound := by
  obtain ⟨hw, hq⟩ := h
  unfold State.windowsSound State.windowsDisjoint State.inFlightTrue State.inboundStaged at *
  rwa [hw, hq]

/-- A window whose range stays, and which is not opened, stays disjoint from the others. -/
theorem State.windowsDisjoint.setWindow (h : s.windowsDisjoint) (k : WindowNo) (v : Window)
    (hb : v.ringBase = s.windows[k].ringBase) (hn : v.sizeExp = s.windows[k].sizeExp)
    (hc : v.state ≠ .closed → s.windows[k].state ≠ .closed) : (s.setWindow k v).windowsDisjoint := by
  have range (j : WindowNo) : (s.setWindow k v).windows[j].ringBase = s.windows[j].ringBase
      ∧ (s.setWindow k v).windows[j].ringEnd = s.windows[j].ringEnd
      ∧ ((s.setWindow k v).windows[j].state ≠ .closed → s.windows[j].state ≠ .closed) := by
    rw [State.window_setWindow]
    by_cases hj : j = k
    · subst hj
      rw [if_pos rfl]
      exact ⟨hb, by rw [Window.ringEnd, hb, hn, Window.ringEnd], hc⟩
    · rw [if_neg hj]
      exact ⟨rfl, rfl, id⟩
  intro a b hab ha hb'
  obtain ⟨baseA, endA, openA⟩ := range a
  obtain ⟨baseB, endB, openB⟩ := range b
  rw [baseA, endA, baseB, endB]
  exact h a b hab (openA ha) (openB hb')

/-- The in-flight counts after window `k` and the queue change: window `k` counts its operations, and every other
window has as many as before. -/
theorem State.inFlightTrue.setWindow (h : s.inFlightTrue) (k : WindowNo) (v : Window) (q : List InboundOp)
    (hk : v.inFlight = q.countP (fun o => o.window = k)) (hz : v.state = .closed → v.inFlight = 0)
    (ho : ∀ j : WindowNo, j ≠ k → q.countP (fun o => o.window = j) = s.imq.countP (fun o => o.window = j)) :
    State.inFlightTrue { s.setWindow k v with imq := q } := by
  intro j
  change (s.setWindow k v).windows[j].inFlight = _ ∧ ((s.setWindow k v).windows[j].state = _ → _)
  simp only [State.window_setWindow]
  by_cases hj : j = k
  · subst hj
    rw [if_pos rfl]
    exact ⟨hk, hz⟩
  · rw [if_neg hj, ho j hj]
    exact h j

theorem State.windowsSound.enqueueInbound (hs : s.windowsSound) (c : RxCell) (b : Option BufNo) (w : WindowNo)
    (a : Addr) (hw : s.windows[w].state = .opened) : (s.enqueueInbound c b w a).windowsSound := by
  obtain ⟨disjoint, counts, staged, queued⟩ := hs
  have count (j : WindowNo) : (presentHead (s.imq ++ [inboundOpOf c b w a])).countP (fun o => o.window = j)
      = s.imq.countP (fun o => o.window = j) + if w = j then 1 else 0 := by
    rw [presentHead_window, List.countP_append]
    simp [inboundOpOf]
  refine ⟨disjoint.setWindow w _ rfl rfl (fun _ => by rw [hw]; nofun), counts.setWindow w _ _ ?_ ?_ ?_,
    presentHead_staged _ ?_⟩
  · rw [count, if_pos rfl, ← (counts w).1]
  · exact fun closed => absurd (hw.symm.trans closed) (by decide)
  · intro j hj
    rw [count, if_neg hj.symm, Nat.add_zero]
  · cases hq : s.imq with
    | nil => simp
    | cons o rest =>
      rw [hq] at queued
      simp only [List.cons_append, List.drop_succ_cons, List.drop_zero, List.mem_append,
        List.mem_singleton] at queued ⊢
      rintro x (hx | rfl)
      · exact queued x hx
      · rfl

theorem State.windowsSound.leaveInboundQueue (hs : s.windowsSound) : s.leaveInboundQueue.windowsSound := by
  unfold State.leaveInboundQueue
  split
  · next o rest hq =>
    obtain ⟨disjoint, counts, -, queued⟩ := hs
    have count (j : WindowNo) : s.imq.countP (fun o => o.window = j)
        = (presentHead rest).countP (fun o => o.window = j) + if o.window = j then 1 else 0 := by
      rw [presentHead_window, hq, List.countP_cons]
      simp
    have left (v : Window) (hb : v.ringBase = s.windows[o.window].ringBase)
        (hn : v.sizeExp = s.windows[o.window].sizeExp)
        (hc : v.state ≠ .closed → s.windows[o.window].state ≠ .closed)
        (hk : v.inFlight = s.windows[o.window].inFlight - 1) (hz : v.state = .closed → v.inFlight = 0) :
        State.windowsSound (State.setWindow { s with imq := presentHead rest } o.window v) := by
      refine ⟨disjoint.setWindow o.window v hb hn hc, counts.setWindow o.window v _ ?_ hz ?_,
        presentHead_staged rest ?_⟩
      · rw [hk, (counts o.window).1, count, if_pos rfl, Nat.add_sub_cancel]
      · intro j hj
        rw [count, if_neg (Ne.symm hj), Nat.add_zero]
      · rw [hq] at queued
        exact fun x hx => queued x (List.mem_of_mem_drop hx)
    rcases State.leaveWindow_cases { s with imq := presentHead rest } o.window with ⟨-, h⟩ | ⟨draining, last, h⟩
    · rw [h]
      refine left _ rfl rfl id rfl fun closed => ?_
      have := (counts o.window).2 closed
      change s.windows[o.window].inFlight - 1 = 0
      omega
    · rw [h]
      have closed := left { s.windows[o.window] with inFlight := 0, state := .closed } rfl rfl (by simp)
        last.symm (fun _ => rfl)
      exact closed.of_same (.of_moverActs (.reportCompletion _ _))
  · exact hs

theorem State.windowsSound.openWindow (hs : s.windowsSound) (k : WindowNo) (w : Window)
    (closed : s.windows[k].state = .closed) (opened : w.state = .opened) (none_in : w.inFlight = 0)
    (free : ∀ j : WindowNo, s.windows[j].state ≠ .closed → s.windows[j].intersects w = false) :
    (s.setWindow k w).windowsSound := by
  obtain ⟨disjoint, counts, staged⟩ := hs
  have apart (j : WindowNo) (hj : s.windows[j].state ≠ .closed) :
      w.ringEnd ≤ s.windows[j].ringBase.toNat ∨ s.windows[j].ringEnd ≤ w.ringBase.toNat := by
    have := free j hj
    simp only [Window.intersects, Bool.and_eq_false_iff, decide_eq_false_iff_not] at this
    omega
  refine ⟨fun a b hab ha hb => ?_, counts.setWindow k w s.imq ?_ ?_ (fun _ _ => rfl), staged⟩
  · rw [State.window_setWindow] at ha hb ⊢
    rw [State.window_setWindow]
    by_cases hka : a = k
    · have hkb : b ≠ k := fun e => hab (hka.trans e.symm)
      rw [if_neg hkb] at hb
      rw [if_pos hka, if_neg hkb]
      exact apart b hb
    · rw [if_neg hka] at ha
      rw [if_neg hka]
      by_cases hkb : b = k
      · rw [if_pos hkb]
        exact (apart a ha).symm
      · rw [if_neg hkb] at hb
        rw [if_neg hkb]
        exact disjoint a b hab ha hb
  · rw [none_in, ← (counts k).1, (counts k).2 closed]
  · simp [opened]

/-- A window changes in neither range nor count, and is CLOSED only with nothing in flight. -/
theorem State.windowsSound.setWindow (hs : s.windowsSound) (k : WindowNo) (v : Window)
    (hb : v.ringBase = s.windows[k].ringBase) (hn : v.sizeExp = s.windows[k].sizeExp)
    (hc : v.state ≠ .closed → s.windows[k].state ≠ .closed) (hk : v.inFlight = s.windows[k].inFlight)
    (hz : v.state = .closed → s.windows[k].inFlight = 0) : (s.setWindow k v).windowsSound := by
  obtain ⟨disjoint, counts, staged⟩ := hs
  exact ⟨disjoint.setWindow k v hb hn hc,
    counts.setWindow k v s.imq (by rw [hk, (counts k).1]) (fun h => hk.trans (hz h)) (fun _ _ => rfl), staged⟩

theorem State.windowsSound.reset {s : State} (hw : s.windows = Vector.replicate 16 .reset) (hq : s.imq = []) :
    s.windowsSound := by
  have closed (j : WindowNo) : s.windows[j] = .reset := by
    rw [hw]
    exact Vector.getElem_replicate j.isLt
  refine ⟨fun a _ _ ha => absurd (closed a ▸ rfl) ha, fun j => ?_, by simp [State.inboundStaged, hq]⟩
  rw [closed, hq]
  exact ⟨rfl, fun _ => rfl⟩

/-- Every move keeps the windows and the Inbound Memory Queue sound. -/
theorem Move.keeps_windowsSound (h : Move i s t) (hs : s.windowsSound) : t.windowsSound := by
  cases h with
  | enqueueInbound c b w a _ hw => exact hs.enqueueInbound c b w a hw
  | leaveInboundQueue => exact hs.leaveInboundQueue
  | replying o rest ok hq =>
    obtain ⟨disjoint, counts, staged, queued⟩ := hs
    refine ⟨disjoint, fun k => ?_, ?_, ?_⟩
    · have := counts k
      rw [hq] at this
      simpa [List.countP_cons] using this
    · simp
    · rw [hq] at queued
      exact queued
  | countRefused w =>
    rcases s.countRefused_cases w with h | ⟨k, h⟩
    · rwa [h]
    · rw [h]
      exact hs.setWindow k _ rfl rfl id rfl (hs.2.1 k).2
  | openWindow k w closed opened none_in free => exact hs.openWindow k w closed opened none_in free
  | closeWindow k _ hn => exact hs.setWindow k _ rfl rfl (by simp) rfl (fun _ => hn)
  | drainWindow k d opened =>
    have drained := hs.setWindow k { s.windows[k] with state := .draining } rfl rfl
      (fun _ => by rw [opened]; nofun) rfl nofun
    exact drained.of_same ⟨rfl, rfl⟩
  | nodeReset => exact .reset rfl rfl
  | hardReset => exact .reset rfl rfl
  | dropTag n x => exact hs.of_same (.of_moverActs (.of_givesUp (.dropTag s n x)))
  | freeBuffer b => exact hs.of_same (.of_moverActs (.of_givesUp (.freeBuffer s b)))
  | stageBuffer b st => exact hs.of_same (.of_moverActs (.of_givesUp (.stageBuffer s b st)))
  | endAbort m => exact hs.of_same (.of_moverActs ((MoverActs.setMover s m _).trans (.reportCompletion _ _)))
  | setMover m w => exact hs.of_same (.setMover m w)
  | takeBuffer m b => exact hs.of_same ⟨State.setMover_windows .., State.setMover_imq ..⟩
  | takeTag n f => exact hs.of_same ⟨State.setMover_windows .., State.setMover_imq ..⟩
  | deferAbort m => exact hs.of_same ⟨State.setMover_windows .., State.setMover_imq ..⟩
  | claimReport =>
    obtain ⟨u, hu⟩ := s.claimReport_frame
    exact hs.of_same (hu ▸ ⟨rfl, rfl⟩)
  | acceptClaim m takeover =>
    obtain ⟨u, k, hu⟩ := s.acceptClaim_frame m takeover
    exact hs.of_same (hu ▸ ⟨rfl, rfl⟩)
  | clearEvents =>
    obtain ⟨u, hu⟩ := s.clearEvents_frame
    exact hs.of_same (hu ▸ ⟨rfl, rfl⟩)
  | applyParams f =>
    obtain ⟨u, hu⟩ := s.applyParams_frame f
    exact hs.of_same (hu ▸ ⟨rfl, rfl⟩)
  | memoryEffect p r =>
    obtain ⟨mem, k, hu⟩ := s.memoryEffect_frame p r
    exact hs.of_same (hu ▸ ⟨rfl, rfl⟩)
  | finish =>
    obtain ⟨u, k, hu⟩ := s.finish_frame
    exact hs.of_same (hu ▸ ⟨rfl, rfl⟩)
  | blocks | responderTakes | abandonTags | startDeadline | mgmt | attentionToIdle | attn | appendTransit
  | popTransit => exact hs.of_same ⟨rfl, rfl⟩

/-- Settles O55: each move keeps the three properties together. -/
theorem stepKeepsWindows : Obligations.StepKeepsWindows := fun _ _ disjoint counts staged h =>
  step_keeps (P := State.windowsSound) (fun _ _ _ move => move.keeps_windowsSound) (fun _ _ _ hs => hs) h
    ⟨disjoint, counts, staged⟩

/-! ### The deferred command (R43, R76, R163) -/

/-- The target of the deferred command. -/
abbrev State.deferredTarget (s : State) : Option DeferTarget := s.mgmt.deferred.map (·.target)

/-- `State.deferredTrue`, for every mover. -/
def State.deferralSound (s : State) : Prop :=
  (∀ k : WindowNo, s.windows[k].state = .draining ↔ s.deferredTarget = some (.windowClose k))
    ∧ ∀ m : MoverId, (s.mover m).state = .aborting ↔ s.deferredTarget = some (.moverAbort m)

theorem State.deferralSound_iff : s.deferralSound ↔ s.deferredTrue := by
  unfold State.deferralSound State.deferredTrue
  exact and_congr .rfl ⟨fun h => ⟨h .m0, h .m1⟩, fun h m => by cases m; exacts [h.1, h.2]⟩

theorem State.deferralSound.of_same (hs : s.deferralSound)
    (hw : ∀ k : WindowNo, t.windows[k].state = .draining ↔ s.windows[k].state = .draining)
    (hm : ∀ m, (t.mover m).state = .aborting ↔ (s.mover m).state = .aborting)
    (hd : t.deferredTarget = s.deferredTarget) : t.deferralSound :=
  ⟨fun k => by rw [hw, hd]; exact hs.1 k, fun m => by rw [hm, hd]; exact hs.2 m⟩

theorem State.deferralSound.setMover (hs : s.deferralSound) (m : MoverId) (v : Mover)
    (h : v.state = .aborting ↔ (s.mover m).state = .aborting) : (s.setMover m v).deferralSound := by
  refine hs.of_same (fun k => by rw [State.setMover_windows]) (fun k => ?_)
    (by rw [State.deferredTarget, State.setMover_mgmt])
  rw [State.mover_setMover]
  split
  · next e => rw [e]; exact h
  · exact .rfl

theorem State.deferralSound.setWindow (hs : s.deferralSound) (k : WindowNo) (v : Window)
    (h : v.state = .draining ↔ s.windows[k].state = .draining) : (s.setWindow k v).deferralSound := by
  refine hs.of_same (fun j => ?_) (fun m => by rw [State.setWindow_mover]) rfl
  rw [State.window_setWindow]
  split
  · next e => rw [e]; exact h
  · exact .rfl

/-- Giving up cells, tags, buffers and fetches leaves the states of movers and windows. -/
theorem State.deferralSound.of_givesUp (hs : s.deferralSound) (h : GivesUp s t) : t.deferralSound := by
  refine hs.of_same (fun k => ?_) (fun m => ?_) ?_
  · rw [(SameInbound.of_moverActs (.of_givesUp h)).1]
  · have same : (t.mover m).state = (s.mover m).state := congrArg Prod.fst (h.core m)
    rw [same]
  · obtain ⟨_, _, _, _, _, _, _, rfl⟩ := h.frame
    rfl

/-- The deferred command ends: what it names is neither DRAINING nor ABORTING any more. -/
theorem State.deferralSound.ended (hs : s.deferralSound) {what : DeferTarget}
    (target : s.deferredTarget = some what) (none_left : t.deferredTarget = none)
    (hw : ∀ k : WindowNo, what ≠ .windowClose k → t.windows[k] = s.windows[k])
    (hm : ∀ m, what ≠ .moverAbort m → t.mover m = s.mover m)
    (ended : (∀ k : WindowNo, what = .windowClose k → t.windows[k].state ≠ .draining)
      ∧ ∀ m, what = .moverAbort m → (t.mover m).state ≠ .aborting) : t.deferralSound := by
  rw [State.deferralSound, none_left]
  refine ⟨fun k => iff_of_false ?_ nofun, fun m => iff_of_false ?_ nofun⟩
  · by_cases h : what = .windowClose k
    · exact ended.1 k h
    · rw [hw k h, hs.1 k, target]
      simpa using h
  · by_cases h : what = .moverAbort m
    · exact ended.2 m h
    · rw [hm m h, hs.2 m, target]
      simpa using h

theorem State.deferralSound.endAbort (hs : s.deferralSound) (m : MoverId)
    (aborting : (s.mover m).state = .aborting) :
    ((s.setMover m ((s.mover m).rest .idle none)).reportCompletion (.moverAbort m)).deferralSound := by
  have target := (hs.2 m).1 aborting
  rcases State.reportCompletion_cases (s.setMover m ((s.mover m).rest .idle none)) (.moverAbort m) with
    ⟨other, -⟩ | ⟨-, st, r, h⟩
  · rw [State.setMover_mgmt] at other
    exact absurd target other
  · rw [h]
    have movers (k : MoverId) := State.mover_setMover s m k ((s.mover m).rest .idle none)
    refine hs.ended target rfl (fun k _ => ?_) (fun k hk => ?_) ⟨nofun, fun k hk => ?_⟩
    · simp only [State.setMover_windows]
    · have hne : k ≠ m := fun e => hk (e ▸ rfl)
      have := movers k
      rw [if_neg hne] at this
      cases k <;> exact this
    · cases hk
      have idle : ((s.setMover m ((s.mover m).rest .idle none)).mover m).state = .idle :=
        congrArg Mover.state ((movers m).trans (if_pos rfl))
      intro hx
      refine absurd (idle.symm.trans ?_) (show MoverState.idle ≠ .aborting by decide)
      cases m <;> exact hx

theorem State.deferralSound.leaveInboundQueue (hs : s.deferralSound) : s.leaveInboundQueue.deferralSound := by
  unfold State.leaveInboundQueue
  split
  · next o rest _ =>
    have same : State.deferralSound { s with imq := presentHead rest } := hs
    rcases State.leaveWindow_cases { s with imq := presentHead rest } o.window with ⟨-, h⟩ | ⟨draining, -, h⟩
    · rw [h]
      exact same.setWindow _ _ .rfl
    · rw [h]
      have target := (hs.1 o.window).1 draining
      rcases State.reportCompletion_cases (State.setWindow { s with imq := presentHead rest } o.window
        { s.windows[o.window] with inFlight := 0, state := .closed }) (.windowClose o.window) with
        ⟨other, -⟩ | ⟨-, st, r, g⟩
      · exact absurd target other
      · rw [g]
        have windows (k : WindowNo) := State.window_setWindow s o.window k
          { s.windows[o.window] with inFlight := 0, state := .closed }
        refine hs.ended target rfl (fun k hk => ?_) (fun m _ => ?_) ⟨fun k hk => ?_, nofun⟩
        · exact (windows k).trans (if_neg fun (e : k = o.window) => hk (e ▸ rfl))
        · cases m <;> rfl
        · cases hk
          have closed := congrArg Window.state ((windows o.window).trans (if_pos rfl))
          intro hx
          exact absurd (closed.symm.trans hx) (by simp)
  · exact hs

/-- With no command deferred no window is DRAINING and no mover ABORTING. -/
theorem State.deferralSound.none_deferred (hs : s.deferralSound) (hd : s.mgmt.deferred = none) :
    (∀ k : WindowNo, s.windows[k].state ≠ .draining) ∧ ∀ m, (s.mover m).state ≠ .aborting := by
  refine ⟨fun k => ?_, fun m => ?_⟩
  · rw [Ne, hs.1 k, State.deferredTarget, hd]
    nofun
  · rw [Ne, hs.2 m, State.deferredTarget, hd]
    nofun

theorem State.deferralSound.drainWindow (hs : s.deferralSound) (k : WindowNo) (d : Deferred)
    (hd : s.mgmt.deferred = none) (target : d.target = .windowClose k) :
    State.deferralSound { s.setWindow k { s.windows[k] with state := .draining } with
      mgmt := { s.mgmt with deferred := some d } } := by
  obtain ⟨none_draining, none_aborting⟩ := hs.none_deferred hd
  have windows (j : WindowNo) := State.window_setWindow s k j { s.windows[k] with state := .draining }
  refine ⟨fun j => ?_, fun m => iff_of_false ?_ ?_⟩
  · simp only [State.deferredTarget, Option.map_some, target, Option.some.injEq, DeferTarget.windowClose.injEq]
    rw [show ∀ g, ({ s.setWindow k { s.windows[k] with state := .draining } with mgmt := g } : State).windows[j] = _
      from fun _ => windows j]
    by_cases hj : j = k
    · rw [if_pos hj]
      exact iff_of_true rfl hj.symm
    · rw [if_neg hj]
      exact iff_of_false (none_draining j) (Ne.symm hj)
  · cases m
    · exact none_aborting .m0
    · exact none_aborting .m1
  · simp [State.deferredTarget, target]

theorem State.deferralSound.deferAbort (hs : s.deferralSound) (m : MoverId) (d : Deferred) (r : Option Addr)
    (hd : s.mgmt.deferred = none) (target : d.target = .moverAbort m) :
    State.deferralSound { s.setMover m { s.mover m with state := .aborting, resume := r } with
      mgmt := { s.mgmt with deferred := some d } } := by
  obtain ⟨none_draining, none_aborting⟩ := hs.none_deferred hd
  refine ⟨fun j => iff_of_false ?_ ?_, fun k => ?_⟩
  · simp only [State.setMover_windows]
    exact none_draining j
  · simp [State.deferredTarget, target]
  · simp only [State.deferredTarget, Option.map_some, target, Option.some.injEq, DeferTarget.moverAbort.injEq]
    rw [show ∀ g, ({ s.setMover m { s.mover m with state := .aborting, resume := r } with
      mgmt := g } : State).mover k = _ from fun _ => (by cases k <;> rfl :
        _ = (s.setMover m { s.mover m with state := .aborting, resume := r }).mover k).trans
          (State.mover_setMover ..)]
    by_cases hk : k = m
    · rw [if_pos hk]
      exact iff_of_true rfl hk.symm
    · rw [if_neg hk]
      exact iff_of_false (none_aborting k) (Ne.symm hk)

theorem State.deferralSound.reset (hw : t.windows = Vector.replicate 16 .reset)
    (hm : ∀ m, t.mover m = .reset) (hd : t.mgmt.deferred = none) : t.deferralSound := by
  rw [State.deferralSound, State.deferredTarget, hd]
  refine ⟨fun k => iff_of_false ?_ nofun, fun m => iff_of_false ?_ nofun⟩
  · have closed : t.windows[k] = .reset := by
      rw [hw]
      exact Vector.getElem_replicate k.isLt
    rw [closed]
    nofun
  · rw [hm]
    nofun

/-- Every move keeps the deferred command's target true. -/
theorem Move.keeps_deferralSound (h : Move i s t) (hs : s.deferralSound) : t.deferralSound := by
  have frame {u : State} (hw : u.windows = s.windows) (hm : ∀ m, u.mover m = s.mover m)
      (hd : u.deferredTarget = s.deferredTarget) : u.deferralSound :=
    hs.of_same (fun k => by rw [hw]) (fun m => by rw [hm]) hd
  cases h with
  | setMover m w keeps => exact hs.setMover m w keeps.aborting
  | takeBuffer m b => exact (show (s.setBuffer b _).deferralSound from hs).setMover m _ (by simp)
  | takeTag n f => exact (show (s.setTag n _).deferralSound from hs).setMover f.origin _ (by simp)
  | dropTag n x => exact hs.of_givesUp (.dropTag s n x)
  | freeBuffer b => exact hs.of_givesUp (.freeBuffer s b)
  | stageBuffer b st => exact hs.of_givesUp (.stageBuffer s b st)
  | endAbort m aborting => exact hs.endAbort m aborting
  | leaveInboundQueue => exact hs.leaveInboundQueue
  | enqueueInbound c b w a => exact State.deferralSound.setWindow (s := { s with imq := _ }) hs w _ .rfl
  | countRefused w =>
    rcases s.countRefused_cases w with h | ⟨k, h⟩
    · rwa [h]
    · rw [h]
      exact hs.setWindow k _ .rfl
  | mgmt g hp hd hc =>
    exact frame rfl (fun m => by cases m <;> rfl) (congrArg (Option.map (·.target)) hd)
  | openWindow k w closed opened => exact hs.setWindow k w (by rw [closed, opened]; decide)
  | closeWindow k opened => exact hs.setWindow k _ (iff_of_false nofun (by rw [opened]; nofun))
  | drainWindow k d _ none_deferred target => exact hs.drainWindow k d none_deferred target
  | deferAbort m d r none_deferred target => exact hs.deferAbort m d r none_deferred target
  | claimReport =>
    obtain ⟨u, hu⟩ := s.claimReport_frame
    rw [hu]
    exact frame rfl (fun m => by cases m <;> rfl) rfl
  | acceptClaim m takeover =>
    obtain ⟨u, k, hu⟩ := s.acceptClaim_frame m takeover
    rw [hu]
    exact frame rfl (fun m => by cases m <;> rfl) rfl
  | clearEvents =>
    obtain ⟨u, hu⟩ := s.clearEvents_frame
    rw [hu]
    exact frame rfl (fun m => by cases m <;> rfl) rfl
  | applyParams f =>
    obtain ⟨u, hu⟩ := s.applyParams_frame f
    rw [hu]
    exact frame rfl (fun m => by cases m <;> rfl) rfl
  | memoryEffect p r =>
    obtain ⟨mem, k, hu⟩ := s.memoryEffect_frame p r
    rw [hu]
    exact frame rfl (fun m => by cases m <;> rfl) rfl
  | finish =>
    obtain ⟨u, k, hu⟩ := s.finish_frame
    rw [hu]
    exact frame rfl (fun m => by cases m <;> rfl) rfl
  | nodeReset => exact .reset rfl (fun m => by cases m <;> rfl) rfl
  | hardReset => exact .reset rfl (fun m => by cases m <;> rfl) rfl
  | blocks | responderTakes | abandonTags | startDeadline | replying | attentionToIdle | attn | appendTransit
  | popTransit => exact frame rfl (fun m => by cases m <;> rfl) rfl

/-- Settles O57: each move keeps the property, said for both movers at once. -/
theorem stepKeepsDeferral : Obligations.StepKeepsDeferral := fun _ _ sound h =>
  State.deferralSound_iff.1 <| step_keeps (fun _ _ _ move => move.keeps_deferralSound)
    (fun _ _ _ hs => State.deferralSound.of_same hs (fun _ => .rfl) (fun m => by cases m <;> exact .rfl) rfl) h
    (State.deferralSound_iff.2 sound)

end Sys2Proof.Machine
end

section
/-! Every step keeps each mover's counts of its tags and buffers true (R47, R106). -/

namespace Sys2Proof.Machine

variable {i : Instr} {s t : State}

/-- `State.tagsSound` and `State.buffersSound`, for every mover. -/
def State.countsSound (s : State) : Prop :=
  (∀ m, (s.mover m).tagsHeld = s.tagsOwned m)
    ∧ (∀ m, (s.mover m).buffersHeld = s.buffersOf m ∧ s.buffersOf m ≤ 4)
    ∧ ∀ b : BufNo, 6 ≤ b.val → s.pool[b].heldByMover = false

theorem State.countsSound_iff : s.countsSound ↔ s.tagsSound ∧ s.buffersSound := by
  have both {p : MoverId → Prop} : (∀ m, p m) ↔ p .m0 ∧ p .m1 :=
    ⟨fun h => ⟨h .m0, h .m1⟩, fun h m => by cases m; exacts [h.1, h.2]⟩
  unfold State.countsSound State.tagsSound State.buffersSound
  simp only [both, State.mover]
  exact ⟨fun ⟨t, ⟨⟨a, b⟩, c, d⟩, e⟩ => ⟨t, a, c, b, d, e⟩, fun ⟨t, a, c, b, d, e⟩ => ⟨t, ⟨⟨a, b⟩, c, d⟩, e⟩⟩

theorem State.countsSound.of_same (hs : s.countsSound) (tags : ∀ m, t.tagsOwned m = s.tagsOwned m)
    (pool : t.pool = s.pool)
    (movers : ∀ m, (t.mover m).tagsHeld = (s.mover m).tagsHeld
      ∧ (t.mover m).buffersHeld = (s.mover m).buffersHeld) : t.countsSound := by
  obtain ⟨owned, held, reserved⟩ := hs
  have buffers (m : MoverId) : t.buffersOf m = s.buffersOf m := by rw [State.buffersOf, pool, State.buffersOf]
  refine ⟨fun m => ?_, fun m => ?_, fun b hb => ?_⟩
  · rw [(movers m).1, tags, owned]
  · rw [(movers m).2, buffers]
    exact held m
  · rw [pool]
    exact reserved b hb

theorem State.countsSound.setMover (hs : s.countsSound) (m : MoverId) (v : Mover)
    (ht : v.tagsHeld = (s.mover m).tagsHeld) (hb : v.buffersHeld = (s.mover m).buffersHeld) :
    (s.setMover m v).countsSound := by
  refine hs.of_same (fun k => by simp [State.tagsOwned]) (by simp) (fun k => ?_)
  rw [State.mover_setMover]
  split
  · next e => exact e ▸ ⟨ht, hb⟩
  · exact ⟨rfl, rfl⟩

/-- A buffer changes, and the counts change with it. -/
theorem State.countsSound.changeBuffer (hs : s.countsSound) (b : BufNo) (v : Buffer) (tags : t.tags = s.tags)
    (pool : t.pool = (s.setBuffer b v).pool) (low : 6 ≤ b.val → v.heldByMover = false)
    (owned : ∀ m, (t.mover m).tagsHeld = (s.mover m).tagsHeld)
    (held : ∀ m, (t.mover m).buffersHeld + (if s.pool[b].holdingMover = some m then 1 else 0)
      = (s.mover m).buffersHeld + (if v.holdingMover = some m then 1 else 0))
    (most : ∀ m, (t.mover m).buffersHeld ≤ 4) : t.countsSound := by
  obtain ⟨tagsOwned, buffersHeld, reserved⟩ := hs
  have count (m : MoverId) : (t.mover m).buffersHeld = t.buffersOf m := by
    have change := s.buffersOf_setBuffer b v m
    have same : t.buffersOf m = (s.setBuffer b v).buffersOf m := by
      rw [State.buffersOf, pool, State.buffersOf]
    have before := (buffersHeld m).1
    have after := held m
    omega
  refine ⟨fun m => ?_, fun m => ⟨count m, count m ▸ most m⟩, fun k hk => ?_⟩
  · rw [owned, tagsOwned, State.tagsOwned, State.tagsOwned, tags]
  · rw [pool]
    by_cases hkb : k = b
    · rw [hkb, State.getBuffer_setBuffer]
      exact low (hkb ▸ hk)
    · rw [State.getBuffer_setBuffer_other _ _ _ _ hkb]
      exact reserved k hk

/-- A tag changes, and the counts change with it. -/
theorem State.countsSound.changeTag (hs : s.countsSound) (n : TagNo) (x : Tag) (pool : t.pool = s.pool)
    (tags : t.tags = (s.setTag n x).tags) (held : ∀ m, (t.mover m).buffersHeld = (s.mover m).buffersHeld)
    (owned : ∀ m, (t.mover m).tagsHeld + (if s.tags[n].owner = some m then 1 else 0)
      = (s.mover m).tagsHeld + (if x.owner = some m then 1 else 0)) : t.countsSound := by
  obtain ⟨tagsOwned, buffersHeld, reserved⟩ := hs
  have buffers (m : MoverId) : t.buffersOf m = s.buffersOf m := by rw [State.buffersOf, pool, State.buffersOf]
  refine ⟨fun m => ?_, fun m => ?_, fun b hb => ?_⟩
  · have change := s.tagsOwned_setTag n x m
    have same : t.tagsOwned m = (s.setTag n x).tagsOwned m := by rw [State.tagsOwned, tags, State.tagsOwned]
    have before := tagsOwned m
    have after := owned m
    omega
  · rw [held, buffers]
    exact buffersHeld m
  · rw [pool]
    exact reserved b hb

/-- A mover that owns an entry counts at least one. -/
theorem State.countsSound.owned_pos (hs : s.countsSound) {n : TagNo} {m : MoverId}
    (h : s.tags[n].owner = some m) : 1 ≤ (s.mover m).tagsHeld := by
  rw [hs.1 m]
  have := s.tagsOwned_setTag n .free m
  rw [if_pos h, if_neg (show Tag.free.owner ≠ some m by nofun)] at this
  omega

/-- A mover that holds a buffer counts at least one. -/
theorem State.countsSound.held_pos (hs : s.countsSound) {b : BufNo} {m : MoverId}
    (h : s.pool[b].holdingMover = some m) : 1 ≤ (s.mover m).buffersHeld := by
  rw [(hs.2.1 m).1]
  have := s.buffersOf_setBuffer b .free m
  rw [if_pos h, if_neg (show Buffer.free.holdingMover ≠ some m by nofun)] at this
  omega

theorem State.countsSound.dropTag (hs : s.countsSound) (n : TagNo) (x : Tag) (hx : x.owner = none) :
    (s.dropTag n x).countsSound := by
  rcases s.dropTag_cases n x with ⟨m, owner, h⟩ | ⟨owner, h⟩
  · rw [h]
    have pos := hs.owned_pos owner
    refine hs.changeTag n x (by simp) (by simp) (fun k => ?_) (fun k => ?_) <;>
      rw [State.mover_setMover, State.setTag_mover]
    · split
      · next e => rw [e]
      · rfl
    · by_cases hk : k = m
      · subst hk
        rw [if_pos rfl, if_pos owner, hx, if_neg nofun]
        change (s.mover k).tagsHeld - 1 + 1 = (s.mover k).tagsHeld + 0
        omega
      · rw [if_neg hk, if_neg fun e => hk (Option.some.inj (e.symm.trans owner)), hx, if_neg nofun]
  · rw [h]
    exact hs.changeTag n x rfl rfl (fun k => by rw [State.setTag_mover])
      (fun k => by rw [State.setTag_mover, owner, hx])

theorem State.countsSound.freeBuffer (hs : s.countsSound) (b : BufNo) : (s.freeBuffer b).countsSound := by
  rcases s.freeBuffer_cases b with ⟨m, st, hb, h⟩ | ⟨hb, h⟩
  · have holder : s.pool[b].holdingMover = some m := by rw [hb]; rfl
    have pos := hs.held_pos holder
    have most (k : MoverId) : (s.mover k).buffersHeld ≤ 4 := (hs.2.1 k).1 ▸ (hs.2.1 k).2
    rw [h]
    refine hs.changeBuffer b .free (by simp) (by simp) (fun _ => rfl) (fun k => ?_) (fun k => ?_) (fun k => ?_) <;>
      rw [State.mover_setMover, State.setBuffer_mover]
    · split
      · next e => rw [e]
      · rfl
    · by_cases hk : k = m
      · subst hk
        rw [if_pos rfl, if_pos holder, if_neg (show Buffer.free.holdingMover ≠ some k by nofun)]
        change (s.mover k).buffersHeld - 1 + 1 = (s.mover k).buffersHeld + 0
        omega
      · rw [if_neg hk, if_neg fun e => hk (Option.some.inj (e.symm.trans holder)),
          if_neg (show Buffer.free.holdingMover ≠ some k by nofun)]
    · have := most k
      split
      · next e =>
        subst e
        exact (Nat.sub_le ..).trans this
      · exact this
  · rw [h]
    refine hs.changeBuffer b .free rfl rfl (fun _ => rfl) (fun k => by rw [State.setBuffer_mover])
      (fun k => by rw [State.setBuffer_mover, hb]; rfl) (fun k => ?_)
    rw [State.setBuffer_mover, (hs.2.1 k).1]
    exact (hs.2.1 k).2

/-- A buffer changes stage, or the responder takes it: no mover's count changes. -/
theorem State.countsSound.sameHolder (hs : s.countsSound) (b : BufNo) (v : Buffer)
    (h : v.holdingMover = s.pool[b].holdingMover) : (s.setBuffer b v).countsSound := by
  refine hs.changeBuffer b v rfl rfl (fun hb => ?_) (fun k => by rw [State.setBuffer_mover])
    (fun k => by rw [State.setBuffer_mover, h]) (fun k => ?_)
  · rw [Buffer.heldByMover, h]
    exact hs.2.2 b hb
  · rw [State.setBuffer_mover, (hs.2.1 k).1]
    exact (hs.2.1 k).2

theorem State.countsSound.takeBuffer (hs : s.countsSound) (m : MoverId) (b : BufNo) (hb : s.pool[b] = .free)
    (low : b.val ≤ 5) (room : (s.mover m).buffersHeld < 4) :
    ((s.setBuffer b (.held (.mover m) .assigned)).setMover m
      { s.mover m with buffersHeld := (s.mover m).buffersHeld + 1 }).countsSound := by
  refine hs.changeBuffer b (.held (.mover m) .assigned) (by simp) (by simp) (fun h => by omega)
    (fun k => ?_) (fun k => ?_) (fun k => ?_) <;> rw [State.mover_setMover, State.setBuffer_mover]
  · split
    · next e => rw [e]
    · rfl
  · by_cases hk : k = m
    · subst hk
      rw [if_pos rfl, hb]
      simp [Buffer.holdingMover]
    · rw [if_neg hk, hb]
      simp [Buffer.holdingMover, Ne.symm hk]
  · split
    · exact room
    · rw [(hs.2.1 k).1]
      exact (hs.2.1 k).2

theorem State.countsSound.takeTag (hs : s.countsSound) (n : TagNo) (f : TagInfo) (hn : s.tags[n] = .free) :
    ((s.setTag n (.waiting f none)).setMover f.origin
      { s.mover f.origin with tagsHeld := (s.mover f.origin).tagsHeld + 1 }).countsSound := by
  refine hs.changeTag n (.waiting f none) (by simp) (by simp) (fun k => ?_) (fun k => ?_) <;>
    rw [State.mover_setMover, State.setTag_mover]
  · split
    · next e => rw [e]
    · rfl
  · by_cases hk : k = f.origin
    · subst hk
      rw [if_pos rfl, hn]
      simp [Tag.owner]
    · rw [if_neg hk, hn]
      simp [Tag.owner, Ne.symm hk]

/-- The start of a deadline keeps the tag's owner (R51). -/
theorem Tag.owner_startDeadline (d : Time) (x : Tag) : (x.startDeadline d).owner = x.owner := by
  rcases x with _ | ⟨f, _ | e⟩ | ⟨f, _ | e⟩ | _ <;> rfl

theorem State.countsSound.reset (tags : t.tags = Vector.replicate 16 .free)
    (pool : t.pool = Vector.replicate 8 .free) (movers : ∀ m, t.mover m = .reset) : t.countsSound := by
  refine ⟨fun m => ?_, fun m => ?_, fun b _ => ?_⟩
  · rw [movers, State.tagsOwned, tags]
    cases m <;> rfl
  · rw [movers, State.buffersOf, pool]
    cases m <;> exact ⟨rfl, by decide⟩
  · have free : t.pool[b] = .free := by
      rw [pool]
      exact Vector.getElem_replicate b.isLt
    rw [free]
    rfl

/-- Every move keeps the movers' counts true. -/
theorem Move.keeps_countsSound (h : Move i s t) (hs : s.countsSound) : t.countsSound := by
  have frame {u : State} (tags : u.tags = s.tags) (pool : u.pool = s.pool) (hm : ∀ m, u.mover m = s.mover m) :
      u.countsSound :=
    hs.of_same (fun k => by rw [State.tagsOwned, State.tagsOwned, tags]) pool (fun m => by rw [hm]; exact ⟨rfl, rfl⟩)
  have reported {u : State} (hu : u.countsSound) (what : DeferTarget) : (u.reportCompletion what).countsSound := by
    rcases u.reportCompletion_cases what with ⟨-, h⟩ | ⟨-, st, r, h⟩
    · rwa [h]
    · rw [h]
      exact hu.of_same (fun _ => rfl) rfl (fun m => by cases m <;> exact ⟨rfl, rfl⟩)
  cases h with
  | setMover m w keeps => exact hs.setMover m w keeps.tagsHeld keeps.buffersHeld
  | takeBuffer m b hb low room => exact hs.takeBuffer m b hb low room
  | takeTag n f free => exact hs.takeTag n f free
  | dropTag n x hx => exact hs.dropTag n x hx
  | freeBuffer b => exact hs.freeBuffer b
  | stageBuffer b st =>
    rcases s.stageBuffer_cases b st with h | ⟨holder, old, hb, h⟩
    · rwa [h]
    · rw [h]
      exact hs.sameHolder b _ (by rw [hb]; cases holder <;> rfl)
  | responderTakes b hb => exact hs.sameHolder b _ (by rw [hb]; rfl)
  | abandonTags m =>
    exact hs.of_same (fun k => s.tagsOwned_abandonTags m k) rfl (fun k => by cases k <;> exact ⟨rfl, rfl⟩)
  | startDeadline n =>
    refine hs.changeTag n _ rfl rfl (fun k => ?_) (fun k => ?_)
    · rw [State.startDeadline, State.setTag_mover]
    · rw [State.startDeadline, State.setTag_mover, Tag.owner_startDeadline]
  | endAbort m => exact reported (hs.setMover m ((s.mover m).rest .idle none) rfl rfl) _
  | leaveInboundQueue =>
    unfold State.leaveInboundQueue
    split
    · next o rest _ =>
      rcases State.leaveWindow_cases { s with imq := presentHead rest } o.window with ⟨-, h⟩ | ⟨-, -, h⟩ <;> rw [h]
      · exact frame rfl rfl (fun m => by cases m <;> rfl)
      · refine reported ?_ _
        exact frame rfl rfl (fun m => by cases m <;> rfl)
    · exact hs
  | countRefused w =>
    rcases s.countRefused_cases w with h | ⟨k, h⟩
    · rwa [h]
    · rw [h]
      exact frame rfl rfl (fun m => by cases m <;> rfl)
  | deferAbort m d r =>
    exact (hs.setMover m { s.mover m with state := .aborting, resume := r } rfl rfl).of_same (fun _ => rfl) rfl
      (fun k => by cases k <;> exact ⟨rfl, rfl⟩)
  | claimReport =>
    obtain ⟨u, hu⟩ := s.claimReport_frame
    rw [hu]
    exact frame rfl rfl (fun m => by cases m <;> rfl)
  | acceptClaim m takeover =>
    obtain ⟨u, k, hu⟩ := s.acceptClaim_frame m takeover
    rw [hu]
    exact frame rfl rfl (fun m => by cases m <;> rfl)
  | clearEvents =>
    obtain ⟨u, hu⟩ := s.clearEvents_frame
    rw [hu]
    exact frame rfl rfl (fun m => by cases m <;> rfl)
  | applyParams f =>
    obtain ⟨u, hu⟩ := s.applyParams_frame f
    rw [hu]
    exact frame rfl rfl (fun m => by cases m <;> rfl)
  | memoryEffect p r =>
    obtain ⟨mem, k, hu⟩ := s.memoryEffect_frame p r
    rw [hu]
    exact frame rfl rfl (fun m => by cases m <;> rfl)
  | finish =>
    obtain ⟨u, k, hu⟩ := s.finish_frame
    rw [hu]
    exact frame rfl rfl (fun m => by cases m <;> rfl)
  | nodeReset => exact .reset rfl rfl (fun m => by cases m <;> rfl)
  | hardReset => exact .reset rfl rfl (fun m => by cases m <;> rfl)
  | blocks | enqueueInbound | replying | mgmt | openWindow | closeWindow | drainWindow | attentionToIdle | attn
  | appendTransit | popTransit => exact frame rfl rfl (fun m => by cases m <;> rfl)

/-- Settles O56: each move keeps the two properties together, said for both movers at once. -/
theorem stepKeepsMoverCounts : Obligations.StepKeepsMoverCounts := fun _ _ tags buffers h =>
  State.countsSound_iff.1 <| step_keeps (fun _ _ _ move => move.keeps_countsSound)
    (fun _ _ _ hs => State.countsSound.of_same hs (fun _ => rfl) rfl (fun m => by cases m <;> exact ⟨rfl, rfl⟩)) h
    (State.countsSound_iff.2 ⟨tags, buffers⟩)

end Sys2Proof.Machine
end

section
/-! Every step keeps the event records sound, leaves no attention due (R185, R189, R190), and leaves nothing to
be taken up between steps (R12). -/

namespace Sys2Proof.Machine

variable {i : Instr} {s t : State}

/-! ### What a step leaves between steps -/

/-- The occurrences on their way and the fetcher are as they were. -/
def SameEnd (s t : State) : Prop := t.raised = s.raised ∧ t.fetcher = s.fetcher

theorem SameEnd.refl : SameEnd s s := ⟨rfl, rfl⟩

theorem SameEnd.trans {u : State} (h : SameEnd s t) (g : SameEnd t u) : SameEnd s u :=
  ⟨g.1.trans h.1, g.2.trans h.2⟩

theorem SameEnd.setMover (m : MoverId) (v : Mover) : SameEnd s (s.setMover m v) :=
  ⟨s.setMover_raised m v, s.setMover_fetcher m v⟩

theorem SameEnd.stageBuffer (b : BufNo) (st : BufStage) : SameEnd s (s.stageBuffer b st) := by
  rcases s.stageBuffer_cases b st with h | ⟨_, _, -, h⟩ <;> rw [h]
  · exact .refl
  · exact ⟨rfl, rfl⟩

theorem SameEnd.placeReply (c : ReplyCell) : SameEnd s (s.placeReply c) := ⟨rfl, rfl⟩

theorem SameEnd.begin (src : RingSource) (frame : List Byte) (n : Nat) : SameEnd s (s.begin src frame n) :=
  ⟨rfl, rfl⟩

theorem SameEnd.nak (h : Header) (r : NakReason) : SameEnd s (s.nak h r) := by
  rcases s.nak_cases h r with ⟨-, e⟩ | ⟨-, e⟩ <;> rw [e] <;> exact ⟨rfl, rfl⟩

theorem SameEnd.placeRead (m : MoverId) (p : Piece) (b : BufNo) (n : Option TagNo) :
    SameEnd s (s.placeRead m p b n) :=
  SameEnd.trans (t := s.setBuffer b (.held (.mover m) .assigned)) ⟨rfl, rfl⟩ (.setMover _ _)

theorem SameEnd.takeTag (m : MoverId) (n : TagNo) (ty : RequestType) (slot : Slot) (p : Piece) :
    SameEnd s (s.takeTag m n ty slot p) :=
  ⟨State.setMover_raised _ _ _, State.setMover_fetcher _ _ _⟩

theorem SameEnd.placeWrite (m : MoverId) (o : MemOp) (b : BufNo) (n : Option TagNo) :
    SameEnd s (s.placeWrite m o b n) := by
  unfold State.placeWrite
  simp only
  split
  · exact ((SameEnd.setMover m _).trans (.stageBuffer b _)).trans ⟨rfl, rfl⟩
  · exact .refl

theorem SameEnd.leaveInboundQueue : SameEnd s s.leaveInboundQueue := by
  have reported (u : State) (what : DeferTarget) : SameEnd u (u.reportCompletion what) := by
    rcases u.reportCompletion_cases what with ⟨-, h⟩ | ⟨-, _, _, h⟩ <;> rw [h] <;> exact ⟨rfl, rfl⟩
  unfold State.leaveInboundQueue
  split
  · next o rest _ =>
    rcases State.leaveWindow_cases { s with imq := presentHead rest } o.window with ⟨-, h⟩ | ⟨-, -, h⟩ <;> rw [h]
    · exact ⟨rfl, rfl⟩
    · exact SameEnd.trans ⟨rfl, rfl⟩ (reported _ _)
  · exact .refl

theorem SameEnd.inboundReplyStep : SameEnd s s.inboundReplyStep := by
  unfold State.inboundReplyStep
  split
  · split
    · split
      · simp only
        split
        · exact ((SameEnd.placeReply _).trans (.stageBuffer _ _)).trans .leaveInboundQueue
        · exact (SameEnd.placeReply _).trans .leaveInboundQueue
      · exact .refl
    · exact .refl
  · exact .refl

theorem SameEnd.placePendingWrite : SameEnd s (placePendingWrite s) := by
  unfold Machine.placePendingWrite
  split
  · split
    · exact .trans (.trans (.setMover _ _) (.setMover _ _)) ⟨rfl, rfl⟩
    · exact .refl
  · exact .refl

theorem SameEnd.sendLocal : SameEnd s s.sendLocal := by
  have sent (u : State) (b : Option BufNo) (h : Header) : SameEnd u (u.sendBuffer b h) := by
    cases b with
    | none => exact .refl
    | some b => exact .stageBuffer b _
  unfold State.sendLocal
  split
  · next rest _ =>
    have left : SameEnd s { s with replyQueue := rest } := ⟨rfl, rfl⟩
    exact (left.trans (sent _ _ _)).trans (.begin _ _ _)
  · next rest _ _ =>
    have left : SameEnd s { s with requestQueue := rest } := ⟨rfl, rfl⟩
    exact (left.trans (sent _ _ _)).trans (.begin _ _ _)
  · exact .refl

theorem SameEnd.choose : SameEnd s s.choose := by
  unfold State.choose
  split
  · split
    · exact ⟨rfl, rfl⟩
    · exact .sendLocal
  · exact .sendLocal

theorem SameEnd.issuePush (m : MoverId) : SameEnd s (issuePush m s) := by
  unfold Machine.issuePush
  split
  · split
    · exact .placeRead ..
    · exact .refl
  · exact .refl

theorem SameEnd.issueTracked (m : MoverId) : SameEnd s (issueTracked m s) := by
  unfold Machine.issueTracked
  split
  · split
    · exact .trans (.takeTag ..) (.placeRead ..)
    · exact .refl
  · exact .refl

theorem SameEnd.issuePull (m : MoverId) : SameEnd s (issuePull m s) := by
  unfold Machine.issuePull
  split
  · split
    · exact .trans (.trans (.takeTag ..) (.setMover ..)) ⟨rfl, rfl⟩
    · exact .refl
  · exact .refl

theorem SameEnd.placeFilled (m : MoverId) : SameEnd s (placeFilled m s) := by
  unfold Machine.placeFilled
  split
  · split
    · split
      · exact .placeWrite ..
      · exact .refl
    · exact .refl
  · exact .refl

theorem SameEnd.endQuarantine (n : TagNo) : SameEnd s (endQuarantine n s) := by
  unfold Machine.endQuarantine
  split <;> exact ⟨rfl, rfl⟩

theorem SameEnd.placeMgmtReply (which : ReplySource) : SameEnd s (placeMgmtReply which s) := by
  unfold Machine.placeMgmtReply
  split
  · split <;> exact ⟨rfl, rfl⟩
  · exact .refl

/-- What a command leaves between steps: nothing, or what it found. -/
theorem exec_end (h : exec i s = .next t) : t.between ∨ SameEnd s t := by
  have ended {u : State} (hf : (Host.Outcome.next u.finish : Result) = .next t) :
      t.between ∨ SameEnd s t := by
    cases hf
    exact .inl u.finish_leaves_between
  have same {u : State} (hu : SameEnd s u) (hf : (Host.Outcome.next u : Result) = .next t) :
      t.between ∨ SameEnd s t := by
    cases hf
    exact .inr hu
  cases i with
  | hardReset pins =>
    cases h
    exact .inl ⟨rfl, fun _ => ⟨rfl, rfl⟩⟩
  | cellReceived frame bad =>
    simp only [exec, execCellReceived] at h
    split at h
    · exact same .refl h
    · split at h
      · exact ended h
      · cases h
  | ringOutChoice ready =>
    refine same (u := ringOutChoice ready s) ?_ h
    unfold ringOutChoice
    split
    · exact .choose
    · exact .refl
  | dispatcherNakPlaced =>
    refine same (u := placeNak s) ?_ h
    unfold placeNak
    split
    · exact .nak _ _
    · exact .refl
  | moverQueueWritePlaced => exact same .placePendingWrite h
  | imqReplyPlaced => exact same .inboundReplyStep h
  | pushPieceIssue m => exact same (.issuePush m) h
  | trackedPieceIssue m => exact same (.issueTracked m) h
  | pullPieceIssue m => exact same (.issuePull m) h
  | pushWritePlaced m => exact same (.placeFilled m) h
  | tagQuarantineEnd n => exact same (.endQuarantine n) h
  | claimLapse =>
    refine same (u := lapseClaim s) ?_ h
    unfold lapseClaim
    split <;> exact ⟨rfl, rfl⟩
  | mgmtReplyPlaced which => exact same (.placeMgmtReply which) h
  | attentionRepeat =>
    refine same (u := repeatAttention s) ?_ h
    unfold repeatAttention
    split <;> exact ⟨rfl, rfl⟩
  | attnPlaced =>
    refine same (u := placeAttn s) ?_ h
    unfold placeAttn
    split
    · split <;> exact ⟨rfl, rfl⟩
    · exact .refl
  | linkUp | linkDown | cellFinished | dispatchCell | responderBufferTaken | inboundAdmission | memoryGrant
  | memoryAnswer | memoryTimeout | tagDeadlineExpiry | claim | release | readStatus | readEvents | setParams
  | windowOpen | windowClose | windowQuery | moverStart | moverStop | moverResume | moverAbort | moverClear
  | moverQuery | nodeReset | unknownCommand => exact ended h

theorem step_end (h : step s = .next t) : t.between ∨ SameEnd s t := by
  unfold step at h
  split at h
  · next c rest _ => exact exec_end (s := { s with pending := rest }) h
  · cases h
    exact .inr ⟨rfl, rfl⟩

theorem step_leaves_between (h : step s = .next t) (hs : s.between) : t.between := by
  rcases step_end h with between | ⟨raised, fetcher⟩
  · exact between
  · rw [State.between, raised, fetcher]
    exact hs

theorem step_raises_none (h : step s = .next t) (hs : s.raised = []) : t.raised = [] := by
  rcases step_end h with ⟨raised, -⟩ | ⟨raised, -⟩
  · exact raised
  · rw [raised, hs]

/-! ### The event records and attention (R185, R189, R190) -/

theorem Claim.manager_isSome (c : Claim) : c.manager.isSome = true ↔ c ≠ .unclaimed := by
  cases c <;> simp [Claim.manager]

/-- The attention condition in the words of its rule (R189). -/
theorem State.attentionCondition_iff : s.attentionCondition = true ↔
    s.events.state = .idle ∧ s.mgmt.claim ≠ .unclaimed
      ∧ ∃ n : Fin 16, s.events.records[n].pending = true ∧ s.mgmt.params.eventMask.getLsbD n.val = true := by
  unfold State.attentionCondition EventUnit.unmaskedPending
  simp only [Bool.and_eq_true, decide_eq_true_eq, List.any_eq_true, List.mem_finRange, true_and,
    Claim.manager_isSome, and_assoc]

/-- The repeat timer and a waiting ATTN exist in SENT only. -/
def State.attnStopped (s : State) : Prop :=
  s.events.state = .idle → s.events.timer = none ∧ s.events.waiting = none

/-- What every move keeps of the Event Unit: `State.recordsSound`, and `State.attentionSettled` but for the
occurrences on their way. -/
def State.eventsSound (s : State) : Prop :=
  s.recordsSound ∧ s.attnStopped ∧ s.attentionCondition = false

/-- An event's count is 0 exactly when it is not pending, and at most 255. -/
def EventRecord.Sound (r : EventRecord) : Prop := r.count ≤ 255 ∧ (r.pending = true ↔ r.count ≠ 0)

theorem EventRecord.sound_bump (r : EventRecord) : r.bump.Sound :=
  ⟨Nat.min_le_left .., iff_of_true rfl (by simp [EventRecord.bump])⟩

theorem EventRecord.sound_subtract (r : EventRecord) : (r.subtract r).Sound := by
  simp [EventRecord.subtract, EventRecord.Sound]

/-- The test of the attention condition leaves the Event Unit sound. -/
theorem State.eventsSound_test (records : s.recordsSound) (stopped : s.attnStopped) :
    s.testAttention.eventsSound := by
  refine ⟨fun n => ?_, ?_, s.testAttention_settles⟩
  · rw [State.testAttention_records]
    exact records n
  · rcases s.testAttention_cases with h | ⟨m, -, -, h⟩ <;> rw [h]
    · exact stopped
    · nofun

theorem State.eventsSound_claimReport (records : s.recordsSound) : s.claimReport.eventsSound :=
  State.eventsSound_test (s := s.attentionToIdle) records fun _ => ⟨rfl, rfl⟩

theorem State.eventsSound_clearEvents (s : State) : s.clearEvents.eventsSound := by
  refine State.eventsSound_test (s := State.attentionToIdle _) (fun n => ?_) fun _ => ⟨rfl, rfl⟩
  have entry : (s.events.records.map fun r => r.subtract r)[n] = s.events.records[n].subtract s.events.records[n] :=
    Vector.getElem_map ..
  change EventRecord.Sound (s.events.records.map fun r => r.subtract r)[n]
  rw [entry]
  exact EventRecord.sound_subtract _

theorem State.eventsSound_takeOccurrence (records : s.recordsSound) (stopped : s.attnStopped) (e : Event) :
    (s.takeOccurrence e).eventsSound := by
  refine State.eventsSound_test (fun n => ?_) stopped
  by_cases h : e.number.val = n.val
  · have entry : (s.events.records.set e.number s.events.records[e.number].bump)[n]
        = s.events.records[e.number].bump := by simp [h]
    dsimp only
    rw [entry]
    exact EventRecord.sound_bump _
  · have entry : (s.events.records.set e.number s.events.records[e.number].bump)[n]
        = s.events.records[n] := by simp [h]
    dsimp only
    rw [entry]
    exact records n

theorem State.eventsSound_foldOccurrences (hs : s.eventsSound) (es : List Event) :
    (es.foldl State.takeOccurrence s).eventsSound := by
  induction es generalizing s with
  | nil => exact hs
  | cons e es ih => exact ih (State.eventsSound_takeOccurrence hs.1 hs.2.1 e)

theorem State.eventsSound_takeRaised (hs : s.eventsSound) : s.takeRaised.eventsSound := by
  have two (u : State) (hu : u.eventsSound) (swap : Bool) (a b : Event) : (u.takeTwo swap a b).eventsSound := by
    cases swap
    · exact State.eventsSound_foldOccurrences hu [a, b]
    · exact State.eventsSound_foldOccurrences hu [b, a]
  unfold State.takeRaised
  split
  · exact hs
  · exact State.eventsSound_takeOccurrence (s := { s with raised := [] }) hs.1 hs.2.1 _
  · simp only
    split
    · exact State.eventsSound_foldOccurrences (two { s with raised := [] } hs _ _ _) _
    · exact State.eventsSound_foldOccurrences (two { s with raised := [], free := s.free + 1 } hs _ _ _) _

theorem State.eventsSound_acceptClaim (hs : s.eventsSound) (m : Slot) (takeover : Bool) :
    (s.acceptClaim m takeover).eventsSound := by
  obtain ⟨records, stopped, -⟩ := hs
  unfold State.acceptClaim
  simp only
  split
  · split
    · exact State.eventsSound_claimReport (State.eventsSound_takeOccurrence
        (s := { s with mgmt := { s.mgmt with claim := .claimed m }, free := s.free + 1 }) records stopped _).1
    · obtain ⟨records, stopped, -⟩ := State.eventsSound_claimReport
        (s := { s with mgmt := { s.mgmt with claim := .claimed m }, free := s.free + 1 }) records
      exact State.eventsSound_takeOccurrence records stopped _
  · exact State.eventsSound_claimReport records

theorem State.eventsSound.of_same (hs : s.eventsSound) (events : t.events = s.events)
    (params : t.mgmt.params.eventMask = s.mgmt.params.eventMask)
    (claim : s.mgmt.claim = .unclaimed → t.mgmt.claim = .unclaimed) : t.eventsSound := by
  obtain ⟨records, stopped, settled⟩ := hs
  refine ⟨fun n => ?_, ?_, ?_⟩
  · rw [events]
    exact records n
  · rw [State.attnStopped, events]
    exact stopped
  · rw [← Bool.not_eq_true, State.attentionCondition_iff] at settled ⊢
    rw [events, params]
    exact fun ⟨idle, claimed, due⟩ => settled ⟨idle, fun h => claimed (claim h), due⟩

/-- The repeat timer and the waiting ATTN change in SENT, or a waiting ATTN goes. -/
theorem State.eventsSound.attn (hs : s.eventsSound) (timer : Option Time) (waiting : Option WaitingAttn)
    (h : s.events.state = .sent ∨ timer = s.events.timer ∧ waiting = none) :
    State.eventsSound { s with events := { s.events with timer := timer, waiting := waiting } } := by
  obtain ⟨records, stopped, settled⟩ := hs
  refine ⟨records, fun idle => ?_, settled⟩
  rcases h with sent | ⟨rfl, rfl⟩
  · exact absurd (sent.symm.trans idle) (by decide)
  · exact ⟨(stopped idle).1, rfl⟩

theorem State.eventsSound_applyParams (hs : s.eventsSound) (f : ParamFields) : (s.applyParams f).eventsSound := by
  obtain ⟨records, stopped, settled⟩ := hs
  unfold State.applyParams
  simp only
  generalize ht : State.repeatTaken { s with mgmt := { s.mgmt with params := f.apply s.mgmt.params } }
    (repeatChanged s.mgmt.params.attentionRepeat f.attentionRepeat) = t
  have repeated : (t.events.state = .sent ∨ t.events = s.events) ∧ t.events.records = s.events.records
      ∧ t.events.state = s.events.state ∧ t.mgmt.claim = s.mgmt.claim
      ∧ t.mgmt.params = f.apply s.mgmt.params := by
    rw [← ht]
    unfold State.repeatTaken
    split
    · next h => exact ⟨.inl (of_decide_eq_true (Bool.and_eq_true_iff.1 h).2), rfl, rfl, rfl, rfl⟩
    · exact ⟨.inr rfl, rfl, rfl, rfl, rfl⟩
  obtain ⟨timer, same, state, claim, params⟩ := repeated
  have recordsSound : t.recordsSound := fun n => by rw [same]; exact records n
  have attnStopped : t.attnStopped := by
    intro idle
    rcases timer with sent | events
    · exact absurd (sent.symm.trans idle) (by decide)
    · rw [events] at idle ⊢
      exact stopped idle
  unfold State.maskTaken
  cases hm : f.eventMask with
  | some m => exact State.eventsSound_test recordsSound attnStopped
  | none =>
    refine ⟨recordsSound, attnStopped, ?_⟩
    have mask : t.mgmt.params.eventMask = s.mgmt.params.eventMask := by
      rw [params, ParamFields.apply, hm, Option.getD_none]
    change t.attentionCondition = false
    rw [← Bool.not_eq_true, State.attentionCondition_iff] at settled ⊢
    rwa [state, claim, same, mask]

theorem State.eventsSound.reset (events : t.events = .reset) (claim : t.mgmt.claim = .unclaimed) :
    t.eventsSound := by
  refine ⟨fun n => ?_, fun _ => ?_, ?_⟩
  · have clear : t.events.records[n] = { pending := false, count := 0 } := by
      rw [events]
      exact Vector.getElem_replicate n.isLt
    rw [clear]
    exact ⟨Nat.zero_le _, by simp⟩
  · rw [events]
    exact ⟨rfl, rfl⟩
  · rw [← Bool.not_eq_true, State.attentionCondition_iff]
    exact fun ⟨_, claimed, _⟩ => claimed claim

/-- Every move keeps the Event Unit sound. -/
theorem Move.keeps_eventsSound (h : Move i s t) (hs : s.eventsSound) : t.eventsSound := by
  have acts {u : State} (h : MoverActs s u) : u.eventsSound := by
    obtain ⟨⟨_, _, _, _, _, _, _, _, _, _, _, rfl⟩, -⟩ := h
    exact hs.of_same rfl rfl id
  have movers (m : MoverId) (v : Mover) (u : State) (hu : u.events = s.events) (hg : u.mgmt = s.mgmt) :
      (u.setMover m v).eventsSound :=
    hs.of_same ((u.setMover_events m v).trans hu) (by rw [State.setMover_mgmt, hg])
      (by rw [State.setMover_mgmt, hg]; exact id)
  cases h with
  | setMover m w => exact movers m w s rfl rfl
  | takeBuffer m b => exact movers _ _ _ rfl rfl
  | takeTag n f => exact movers _ _ _ rfl rfl
  | deferAbort m d r => exact hs.of_same (s.setMover_events m _) rfl id
  | dropTag n x => exact acts (.of_givesUp (.dropTag s n x))
  | freeBuffer b => exact acts (.of_givesUp (.freeBuffer s b))
  | stageBuffer b st => exact acts (.of_givesUp (.stageBuffer s b st))
  | endAbort m => exact acts ((MoverActs.setMover s m _).trans (.reportCompletion _ _))
  | leaveInboundQueue =>
    unfold State.leaveInboundQueue
    split
    · next o rest _ =>
      rcases State.leaveWindow_cases { s with imq := presentHead rest } o.window with ⟨-, h⟩ | ⟨-, -, h⟩ <;> rw [h]
      · exact hs.of_same rfl rfl id
      · rcases State.reportCompletion_cases (State.setWindow { s with imq := presentHead rest } o.window
          { s.windows[o.window] with inFlight := 0, state := .closed }) (.windowClose o.window) with
          ⟨-, g⟩ | ⟨-, _, _, g⟩ <;> rw [g] <;> exact hs.of_same rfl rfl id
    · exact hs
  | countRefused w =>
    rcases s.countRefused_cases w with h | ⟨k, h⟩
    · rwa [h]
    · rw [h]
      exact hs.of_same rfl rfl id
  | mgmt g hp hd hc => exact hs.of_same rfl (by rw [hp]) hc
  | claimReport => exact State.eventsSound_claimReport hs.1
  | acceptClaim m takeover => exact State.eventsSound_acceptClaim hs m takeover
  | clearEvents => exact s.eventsSound_clearEvents
  | attentionToIdle unclaimed =>
    refine ⟨hs.1, fun _ => ⟨rfl, rfl⟩, ?_⟩
    rw [← Bool.not_eq_true, State.attentionCondition_iff]
    exact fun ⟨_, claimed, _⟩ => claimed unclaimed
  | attn timer waiting h => exact hs.attn timer waiting h
  | applyParams f => exact State.eventsSound_applyParams hs f
  | memoryEffect p r =>
    obtain ⟨mem, k, hu⟩ := s.memoryEffect_frame p r
    exact hu ▸ hs.of_same rfl rfl id
  | finish => exact State.eventsSound_takeRaised (s := { s with fetcher := s.fetcher.start }) hs
  | nodeReset => exact .reset rfl rfl
  | hardReset => exact .reset rfl rfl
  | blocks | responderTakes | abandonTags | startDeadline | enqueueInbound | replying | openWindow | closeWindow
  | drainWindow | appendTransit | popTransit => exact hs.of_same rfl rfl id

/-- Settles O58: each move keeps the Event Unit sound, and a step leaves no occurrence on its way. -/
theorem stepKeepsEventUnit : Obligations.StepKeepsEventUnit := by
  intro s t records ⟨raised, due, stopped⟩ h
  have sound : s.eventsSound := ⟨records, stopped, by rwa [← Bool.not_eq_true, State.attentionCondition_iff]⟩
  obtain ⟨records', stopped', settled⟩ :=
    step_keeps (fun _ _ _ move => move.keeps_eventsSound) (fun _ _ _ hs => State.eventsSound.of_same hs rfl rfl id) h
      sound
  rw [← Bool.not_eq_true, State.attentionCondition_iff] at settled
  exact ⟨records', step_raises_none h raised, settled, stopped'⟩

end Sys2Proof.Machine
end

section
/-! Every step keeps the capacities and the ranges (R91, R111, R114, R122, R143, R146, R149, R166), and what only a
few commands change (R126, R146, R152, R166). -/

namespace Sys2Proof.Machine

variable {i : Instr} {s t : State}

/-! ### Queues, parameters and the record of card memory -/

/-- What every move keeps: `State.withinCapacity`, said for every mover, `State.paramsInRange` and
`State.memoryWf`. -/
structure State.Bounded (s : State) : Prop where
  transit : s.ring.transit.length ≤ 4
  inbound : s.inbound.queue.length ≤ 8
  imq : s.imq.length ≤ 4
  requests : s.requestQueue.length ≤ 8
  replies : s.replyQueue.length ≤ 8
  movers : ∀ m, (s.mover m).queue.length ≤ 2
  params : s.paramsInRange
  memory : s.memoryWf

theorem State.bounded_iff : s.Bounded ↔ s.withinCapacity ∧ s.paramsInRange ∧ s.memoryWf :=
  ⟨fun h => ⟨⟨h.transit, h.inbound, h.imq, h.requests, h.replies, h.movers .m0, h.movers .m1⟩, h.params, h.memory⟩,
    fun ⟨⟨a, b, c, d, e, f, g⟩, params, memory⟩ =>
      ⟨a, b, c, d, e, fun m => by cases m; exacts [f, g], params, memory⟩⟩

/-- The blocks that a bound speaks of, apart from the movers' queues, are as they were. -/
theorem State.Bounded.of_same (hs : s.Bounded) (ring : t.ring = s.ring) (inbound : t.inbound = s.inbound)
    (imq : t.imq.length ≤ s.imq.length) (requests : t.requestQueue = s.requestQueue)
    (replies : t.replyQueue = s.replyQueue) (movers : ∀ m, (t.mover m).queue.length ≤ 2)
    (params : t.mgmt.params = s.mgmt.params) (memory : t.cardMem = s.cardMem) : t.Bounded := by
  obtain ⟨a, b, c, d, e, f, g, h⟩ := hs
  refine ⟨by rwa [ring], by rwa [inbound], imq.trans c, by rwa [requests], by rwa [replies], movers, ?_, ?_⟩
  · rw [State.paramsInRange, params, ring]
    exact g
  · rw [State.memoryWf, memory]
    exact h

theorem State.Bounded.setMover (hs : s.Bounded) (m : MoverId) (v : Mover) (h : v.queue.length ≤ 2) :
    (s.setMover m v).Bounded := by
  refine hs.of_same (s.setMover_ring ..) (s.setMover_inbound ..) (s.setMover_imq .. ▸ le_rfl)
    (s.setMover_requestQueue ..) (s.setMover_replyQueue ..) (fun k => ?_) (s.setMover_mgmt .. ▸ rfl)
    (s.setMover_cardMem ..)
  rw [State.mover_setMover]
  split
  · exact h
  · exact hs.movers k

/-- A value of a field that is present and valid, or the one in force, is in the range. -/
theorem inRange_getD {lo hi v : Nat} {field : Option Nat} (valid : inRange lo hi field = true)
    (h : lo ≤ v ∧ v ≤ hi) : lo ≤ field.getD v ∧ field.getD v ≤ hi := by
  cases field with
  | none => exact h
  | some w => simpa [inRange] using valid

/-- Valid fields leave every parameter in its range (R166). -/
theorem State.paramsInRange.apply (h : s.paramsInRange) {f : ParamFields} (valid : f.valid = true) :
    State.paramsInRange { s with mgmt := { s.mgmt with params := f.apply s.mgmt.params } } := by
  obtain ⟨response, memory, attention, lapse, pass, hops, tags0, tags1, counter⟩ := h
  simp only [ParamFields.valid, Bool.and_eq_true, and_assoc] at valid
  obtain ⟨f0, f1, f2, f3, f4, f5, f6, f7⟩ := valid
  exact ⟨inRange_getD f0 response, inRange_getD f1 memory, (inRange_getD f2 ⟨Nat.zero_le _, attention⟩).2,
    (inRange_getD f3 ⟨Nat.zero_le _, lapse⟩).2, inRange_getD f4 pass, inRange_getD f5 hops, inRange_getD f6 tags0,
    inRange_getD f7 tags1, counter⟩

theorem State.paramsInRange.reset (params : t.mgmt.params = .default) (counter : t.ring.passCounter = 0) :
    t.paramsInRange := by
  rw [State.paramsInRange, params, counter]
  decide

theorem State.leaveInboundQueue_length (s : State) : s.leaveInboundQueue.imq.length ≤ s.imq.length := by
  unfold State.leaveInboundQueue
  split
  · next o rest h =>
    have reported (u : State) (what : DeferTarget) : (u.reportCompletion what).imq = u.imq := by
      rcases u.reportCompletion_cases what with ⟨-, h⟩ | ⟨-, _, _, h⟩ <;> rw [h]
    have left : State.imq (State.leaveWindow { s with imq := presentHead rest } o.window) = presentHead rest := by
      rcases State.leaveWindow_cases { s with imq := presentHead rest } o.window with ⟨-, h⟩ | ⟨-, -, h⟩ <;> rw [h]
      · rfl
      · exact reported _ _
    rw [left, presentHead_length, h, List.length_cons]
    exact Nat.le_succ _
  · exact le_rfl

/-- The leaving of the Inbound Memory Queue changes that queue, a window and the deferred command. -/
theorem State.leaveInboundQueue_frame (s : State) : ∃ q w g, s.leaveInboundQueue
    = { s with imq := q, windows := w, mgmt := g } ∧ g.params = s.mgmt.params := by
  unfold State.leaveInboundQueue
  split
  · next o rest h =>
    rcases State.leaveWindow_cases { s with imq := presentHead rest } o.window with ⟨-, h⟩ | ⟨-, -, h⟩
    · exact ⟨_, _, s.mgmt, h, rfl⟩
    · rcases State.reportCompletion_cases (State.setWindow { s with imq := presentHead rest } o.window
        { s.windows[o.window] with inFlight := 0, state := .closed }) (.windowClose o.window) with
        ⟨-, g⟩ | ⟨-, st, r, g⟩
      · exact ⟨_, _, s.mgmt, h.trans g, rfl⟩
      · exact ⟨_, _, { s.mgmt with deferred := none, stored := st, replyDeferred := r }, h.trans g, rfl⟩
  · exact ⟨s.imq, s.windows, s.mgmt, rfl, rfl⟩

/-- Every move keeps the bounds. -/
theorem Move.keeps_bounded (h : Move i s t) (hs : s.Bounded) : t.Bounded := by
  have same {u : State} (ring : u.ring = s.ring) (inbound : u.inbound = s.inbound)
      (imq : u.imq.length ≤ s.imq.length) (requests : u.requestQueue = s.requestQueue)
      (replies : u.replyQueue = s.replyQueue) (movers : ∀ m, (u.mover m).queue = (s.mover m).queue)
      (params : u.mgmt.params = s.mgmt.params) (memory : u.cardMem = s.cardMem) : u.Bounded :=
    hs.of_same ring inbound imq requests replies (fun m => movers m ▸ hs.movers m) params memory
  have bound {a b c : Nat} (h : a ≤ b ∨ a ≤ c) (hb : b ≤ c) : a ≤ c := h.elim (·.trans hb) id
  cases h with
  | blocks link counter out inbound requests replies fetcher port now free raised hc hi hq hp hn =>
    obtain ⟨transit, inboundLen, imq, requestsLen, repliesLen, movers, params, memory⟩ := hs
    obtain ⟨p0, p1, p2, p3, p4, p5, p6, p7, p8⟩ := params
    exact ⟨transit, bound hi inboundLen, imq, bound hq requestsLen, bound hp repliesLen,
      fun m => by cases m; exacts [movers .m0, movers .m1],
      ⟨p0, p1, p2, p3, p4, p5, p6, p7, hc.trans p8⟩, memory⟩
  | setMover m w keeps => exact hs.setMover m w (bound keeps.queue (hs.movers m))
  | takeBuffer m b =>
    exact State.Bounded.setMover (same (u := s.setBuffer b _) rfl rfl le_rfl rfl rfl (fun m => by cases m <;> rfl)
      rfl rfl) m _ (hs.movers m)
  | takeTag n f =>
    exact State.Bounded.setMover (same (u := s.setTag n _) rfl rfl le_rfl rfl rfl (fun m => by cases m <;> rfl)
      rfl rfl) f.origin _ (hs.movers f.origin)
  | dropTag n x =>
    rcases s.dropTag_cases n x with ⟨m, -, h⟩ | ⟨-, h⟩
    · exact h ▸ State.Bounded.setMover (same (u := s.setTag n x) rfl rfl le_rfl rfl rfl
        (fun m => by cases m <;> rfl) rfl rfl) m _ (hs.movers m)
    · exact h ▸ same rfl rfl le_rfl rfl rfl (fun m => by cases m <;> rfl) rfl rfl
  | freeBuffer b =>
    rcases s.freeBuffer_cases b with ⟨m, st, -, h⟩ | ⟨-, h⟩
    · exact h ▸ State.Bounded.setMover (same (u := s.setBuffer b .free) rfl rfl le_rfl rfl rfl
        (fun m => by cases m <;> rfl) rfl rfl) m _ (hs.movers m)
    · exact h ▸ same rfl rfl le_rfl rfl rfl (fun m => by cases m <;> rfl) rfl rfl
  | stageBuffer b st =>
    rcases s.stageBuffer_cases b st with h | ⟨_, _, -, h⟩
    · rwa [h]
    · exact h ▸ same rfl rfl le_rfl rfl rfl (fun m => by cases m <;> rfl) rfl rfl
  | endAbort m =>
    have rested := hs.setMover m ((s.mover m).rest .idle none) (hs.movers m)
    rcases State.reportCompletion_cases (s.setMover m ((s.mover m).rest .idle none)) (.moverAbort m) with
      ⟨-, h⟩ | ⟨-, _, _, h⟩
    · rwa [h]
    · exact h ▸ rested.of_same rfl rfl le_rfl rfl rfl
        (fun k => by cases k; exacts [rested.movers .m0, rested.movers .m1]) rfl rfl
  | enqueueInbound c b w a room =>
    obtain ⟨transit, inbound, -, requests, replies, movers, params, memory⟩ := hs
    refine ⟨transit, inbound, ?_, requests, replies, fun m => by cases m; exacts [movers .m0, movers .m1], params,
      memory⟩
    change (presentHead (s.imq ++ _)).length ≤ 4
    rw [presentHead_length, List.length_append]
    exact room
  | leaveInboundQueue =>
    have shorter := s.leaveInboundQueue_length
    obtain ⟨q, w, g, h, params⟩ := s.leaveInboundQueue_frame
    rw [h] at shorter ⊢
    exact same rfl rfl shorter rfl rfl (fun m => by cases m <;> rfl) params rfl
  | replying o rest ok head => exact same rfl rfl (by simp [head]) rfl rfl (fun m => by cases m <;> rfl) rfl rfl
  | countRefused w =>
    rcases s.countRefused_cases w with h | ⟨k, h⟩
    · rwa [h]
    · exact h ▸ same rfl rfl le_rfl rfl rfl (fun m => by cases m <;> rfl) rfl rfl
  | mgmt g hp => exact same rfl rfl le_rfl rfl rfl (fun m => by cases m <;> rfl) hp rfl
  | deferAbort m d r =>
    have aborting := hs.setMover m { s.mover m with state := .aborting, resume := r } (hs.movers m)
    exact aborting.of_same rfl rfl le_rfl rfl rfl
      (fun k => by cases k; exacts [aborting.movers .m0, aborting.movers .m1]) (s.setMover_mgmt .. ▸ rfl) rfl
  | claimReport =>
    obtain ⟨u, hu⟩ := s.claimReport_frame
    exact hu ▸ same rfl rfl le_rfl rfl rfl (fun m => by cases m <;> rfl) rfl rfl
  | acceptClaim m takeover =>
    obtain ⟨u, k, hu⟩ := s.acceptClaim_frame m takeover
    exact hu ▸ same rfl rfl le_rfl rfl rfl (fun m => by cases m <;> rfl) rfl rfl
  | clearEvents =>
    obtain ⟨u, hu⟩ := s.clearEvents_frame
    exact hu ▸ same rfl rfl le_rfl rfl rfl (fun m => by cases m <;> rfl) rfl rfl
  | finish =>
    obtain ⟨u, k, hu⟩ := s.finish_frame
    exact hu ▸ same rfl rfl le_rfl rfl rfl (fun m => by cases m <;> rfl) rfl rfl
  | memoryEffect p r =>
    have canonical := s.memoryEffect_wf p r hs.memory
    obtain ⟨mem, k, hu⟩ := s.memoryEffect_frame p r
    rw [hu] at canonical ⊢
    exact ⟨hs.transit, hs.inbound, hs.imq, hs.requests, hs.replies,
      fun m => by cases m; exacts [hs.movers .m0, hs.movers .m1], hs.params, canonical⟩
  | applyParams f valid =>
    obtain ⟨u, hu⟩ := s.applyParams_frame f
    rw [hu]
    exact ⟨hs.transit, hs.inbound, hs.imq, hs.requests, hs.replies,
      fun m => by cases m; exacts [hs.movers .m0, hs.movers .m1], hs.params.apply valid, hs.memory⟩
  | appendTransit f _ room =>
    refine ⟨?_, hs.inbound, hs.imq, hs.requests, hs.replies,
      fun m => by cases m; exacts [hs.movers .m0, hs.movers .m1], hs.params, hs.memory⟩
    change (s.ring.transit ++ [f]).length ≤ 4
    rw [List.length_append]
    exact room
  | popTransit f rest counter _ head counts =>
    obtain ⟨p0, p1, p2, p3, p4, p5, p6, p7, p8⟩ := hs.params
    have shorter := hs.transit
    rw [head] at shorter
    exact ⟨(Nat.le_succ _).trans shorter, hs.inbound, hs.imq, hs.requests, hs.replies,
      fun m => by cases m; exacts [hs.movers .m0, hs.movers .m1],
      ⟨p0, p1, p2, p3, p4, p5, p6, p7, counts.elim (·.trans p8) (·.trans p4.2)⟩, hs.memory⟩
  | nodeReset =>
    exact ⟨hs.transit, Nat.zero_le _, Nat.zero_le _, Nat.zero_le _, Nat.zero_le _,
      fun m => by cases m <;> exact Nat.zero_le _, .reset rfl rfl, hs.memory⟩
  | hardReset pins =>
    refine ⟨Nat.zero_le _, Nat.zero_le _, Nat.zero_le _, Nat.zero_le _, Nat.zero_le _,
      fun m => by cases m <;> exact Nat.zero_le _, .reset rfl rfl, ?_⟩
    change memWf s.cutOperation.cardMem = true
    unfold State.cutOperation
    split
    · exact s.memoryEffect_wf _ _ hs.memory
    · exact hs.memory
  | responderTakes | abandonTags | startDeadline | openWindow | closeWindow | drainWindow | attentionToIdle | attn =>
    exact same rfl rfl le_rfl rfl rfl (fun m => by cases m <;> rfl) rfl rfl

/-- Settles O54: each move keeps the bounds, and a step leaves nothing between steps. -/
theorem stepKeepsCapacity : Obligations.StepKeepsCapacity := by
  intro s t capacity params memory between h
  have bounded : t.Bounded := step_keeps (fun _ _ _ move => move.keeps_bounded)
    (fun _ _ _ hs => State.Bounded.of_same hs rfl rfl le_rfl rfl rfl
      (fun m => by cases m; exacts [hs.movers .m0, hs.movers .m1]) rfl rfl) h
    (State.bounded_iff.2 ⟨capacity, params, memory⟩)
  obtain ⟨capacity', params', memory'⟩ := State.bounded_iff.1 bounded
  exact ⟨capacity', params', memory', step_leaves_between h between⟩

end Sys2Proof.Machine
end

section
/-! What only a few commands change: the own slot, the record of card memory, the parameters, the transit FIFO
(R126, R146, R152, R166), and the state right after reset. -/

namespace Sys2Proof.Machine

variable {i : Instr} {s t : State}

/-! ### The own slot, the record of card memory and the parameters -/

/-- From `s` to `t` the command `i` has changed these fields only as it may. -/
structure Owned (i : Instr) (s t : State) : Prop where
  pending : t.pending = s.pending
  now : s.now ≤ t.now
  ownSlot : (∀ pins, i ≠ .hardReset pins) → t.ring.ownSlot = s.ring.ownSlot
  memory : (∀ pins, i ≠ .hardReset pins) → t.cardMem ≠ s.cardMem →
    i = .memoryTimeout ∨ ∃ serial answer, i = .memoryAnswer serial answer
  params : (∀ pins, i ≠ .hardReset pins) → t.mgmt.params ≠ s.mgmt.params →
    i = .setParams ∨ ∃ first, i = .cellFinished first

theorem Owned.of_same (pending : t.pending = s.pending) (now : s.now ≤ t.now)
    (ownSlot : t.ring.ownSlot = s.ring.ownSlot) (memory : t.cardMem = s.cardMem)
    (params : t.mgmt.params = s.mgmt.params) : Owned i s t :=
  ⟨pending, now, fun _ => ownSlot, fun _ h => absurd memory h, fun _ h => absurd params h⟩

theorem Owned.trans {u : State} (h : Owned i s t) (g : Owned i t u) : Owned i s u := by
  refine ⟨g.pending.trans h.pending, h.now.trans g.now, fun hi => (g.ownSlot hi).trans (h.ownSlot hi),
    fun hi changed => ?_, fun hi changed => ?_⟩
  · by_cases same : t.cardMem = s.cardMem
    · exact g.memory hi fun e => changed (e.trans same)
    · exact h.memory hi same
  · by_cases same : t.mgmt.params = s.mgmt.params
    · exact g.params hi fun e => changed (e.trans same)
    · exact h.params hi same

theorem Owned.of_moverActs (h : MoverActs s t) : Owned i s t := by
  obtain ⟨⟨_, _, _, _, _, _, _, _, _, _, _, rfl⟩, -⟩ := h
  exact .of_same rfl le_rfl rfl rfl rfl

theorem Owned.setMover (m : MoverId) (v : Mover) : Owned i s (s.setMover m v) :=
  .of_moverActs (.setMover s m v)

theorem Move.owned (h : Move i s t) : Owned i s t := by
  cases h with
  | blocks _ _ _ _ _ _ _ _ now _ _ _ _ _ _ later => exact .of_same rfl later rfl rfl rfl
  | setMover m w => exact .setMover m w
  | takeBuffer m b => exact .trans (t := s.setBuffer b _) (.of_same rfl le_rfl rfl rfl rfl) (.setMover m _)
  | takeTag n f => exact .trans (t := s.setTag n _) (.of_same rfl le_rfl rfl rfl rfl) (.setMover f.origin _)
  | dropTag n x => exact .of_moverActs (.of_givesUp (.dropTag s n x))
  | freeBuffer b => exact .of_moverActs (.of_givesUp (.freeBuffer s b))
  | stageBuffer b st => exact .of_moverActs (.of_givesUp (.stageBuffer s b st))
  | endAbort m => exact .of_moverActs ((MoverActs.setMover s m _).trans (.reportCompletion _ _))
  | leaveInboundQueue =>
    obtain ⟨q, w, g, h, params⟩ := s.leaveInboundQueue_frame
    exact h ▸ .of_same rfl le_rfl rfl rfl params
  | countRefused w =>
    rcases s.countRefused_cases w with h | ⟨k, h⟩ <;> rw [h] <;> exact .of_same rfl le_rfl rfl rfl rfl
  | mgmt g params => exact .of_same rfl le_rfl rfl rfl params
  | deferAbort m d r =>
    exact .trans (.setMover m { s.mover m with state := .aborting, resume := r })
      (.of_same rfl le_rfl rfl rfl (s.setMover_mgmt .. ▸ rfl))
  | claimReport =>
    obtain ⟨u, hu⟩ := s.claimReport_frame
    exact hu ▸ .of_same rfl le_rfl rfl rfl rfl
  | acceptClaim m takeover =>
    obtain ⟨u, k, hu⟩ := s.acceptClaim_frame m takeover
    exact hu ▸ .of_same rfl le_rfl rfl rfl rfl
  | clearEvents =>
    obtain ⟨u, hu⟩ := s.clearEvents_frame
    exact hu ▸ .of_same rfl le_rfl rfl rfl rfl
  | finish =>
    obtain ⟨u, k, hu⟩ := s.finish_frame
    exact hu ▸ .of_same rfl le_rfl rfl rfl rfl
  | memoryEffect p r ends =>
    obtain ⟨mem, k, hu⟩ := s.memoryEffect_frame p r
    exact hu ▸ ⟨rfl, le_rfl, fun _ => rfl, fun _ _ => ends, fun _ h => absurd rfl h⟩
  | applyParams f _ sets =>
    obtain ⟨u, hu⟩ := s.applyParams_frame f
    exact hu ▸ ⟨rfl, le_rfl, fun _ => rfl, fun _ h => absurd rfl h, fun _ _ => .inl sets⟩
  | nodeReset finishes => exact ⟨rfl, le_rfl, fun _ => rfl, fun _ h => absurd rfl h, fun _ _ => .inr finishes⟩
  | hardReset pins resets =>
    have cut : s.cutOperation.pending = s.pending ∧ s.cutOperation.now = s.now := by
      unfold State.cutOperation
      split
      · next p _ =>
        obtain ⟨mem, k, hu⟩ := s.memoryEffect_frame p .error
        exact hu ▸ ⟨rfl, rfl⟩
      · exact ⟨rfl, rfl⟩
    exact ⟨cut.1, cut.2.ge, fun h => absurd resets (h pins), fun h => absurd resets (h pins),
      fun h => absurd resets (h pins)⟩
  | responderTakes | abandonTags | startDeadline | enqueueInbound | replying | openWindow | closeWindow | drainWindow
  | attentionToIdle | attn | appendTransit | popTransit => exact .of_same rfl le_rfl rfl rfl rfl

theorem Moves.owned (h : Moves i s t) : Owned i s t :=
  h.keep (P := Owned i s) (fun _ _ move hs => hs.trans move.owned) (.of_same rfl le_rfl rfl rfl rfl)

/-! ### The transit FIFO -/

/-- The commands that change the transit FIFO. -/
def movesTransit : Instr → Bool
  | .hardReset _ | .cellReceived _ _ | .ringOutChoice _ | .cellFinished _ => true
  | _ => false

theorem Move.transit (h : Move i s t) (hi : movesTransit i = false) : t.ring.transit = s.ring.transit := by
  have acts {u : State} (h : MoverActs s u) : u.ring.transit = s.ring.transit := by
    obtain ⟨⟨_, _, _, _, _, _, _, _, _, _, _, rfl⟩, -⟩ := h
    rfl
  cases h with
  | setMover m w => exact acts (.setMover s m w)
  | takeBuffer m b => exact congrArg Ring.transit (State.setMover_ring ..)
  | takeTag n f => exact congrArg Ring.transit (State.setMover_ring ..)
  | deferAbort m d r => exact congrArg Ring.transit (State.setMover_ring ..)
  | dropTag n x => exact acts (.of_givesUp (.dropTag s n x))
  | freeBuffer b => exact acts (.of_givesUp (.freeBuffer s b))
  | stageBuffer b st => exact acts (.of_givesUp (.stageBuffer s b st))
  | endAbort m => exact acts ((MoverActs.setMover s m _).trans (.reportCompletion _ _))
  | leaveInboundQueue =>
    obtain ⟨q, w, g, h, -⟩ := s.leaveInboundQueue_frame
    rw [h]
  | countRefused w => rcases s.countRefused_cases w with h | ⟨k, h⟩ <;> rw [h]; rfl
  | claimReport =>
    obtain ⟨u, hu⟩ := s.claimReport_frame
    rw [hu]
  | acceptClaim m takeover =>
    obtain ⟨u, k, hu⟩ := s.acceptClaim_frame m takeover
    rw [hu]
  | clearEvents =>
    obtain ⟨u, hu⟩ := s.clearEvents_frame
    rw [hu]
  | applyParams f =>
    obtain ⟨u, hu⟩ := s.applyParams_frame f
    rw [hu]
  | finish =>
    obtain ⟨u, k, hu⟩ := s.finish_frame
    rw [hu]
  | memoryEffect p r =>
    obtain ⟨mem, k, hu⟩ := s.memoryEffect_frame p r
    rw [hu]
  | appendTransit f received =>
    obtain ⟨_, _, rfl⟩ := received
    cases hi
  | popTransit f rest counter chooses =>
    obtain ⟨r, rfl | rfl⟩ := chooses <;> cases hi
  | hardReset pins resets =>
    subst resets
    cases hi
  | blocks | responderTakes | abandonTags | startDeadline | enqueueInbound | replying | mgmt | openWindow
  | closeWindow | drainWindow | attentionToIdle | attn | nodeReset => rfl

/-- Moves that any command may make leave the transit FIFO; LINK_UP stands for any command. -/
theorem Moves.transit (h : Moves i s t) (hi : movesTransit i = false := by rfl) :
    t.ring.transit = s.ring.transit :=
  h.keep (P := fun u => u.ring.transit = s.ring.transit) (fun _ _ move hs => (move.transit hi).trans hs) rfl

theorem State.finish_transit (s : State) : s.finish.ring.transit = s.ring.transit := by
  obtain ⟨u, k, hu⟩ := s.finish_frame
  rw [hu]

/-- The arbiter's choice takes no cell from the transit FIFO, or its head. -/
theorem State.choose_transit (s : State) :
    s.choose.ring.transit = s.ring.transit ∨ ∃ f, s.ring.transit = f :: s.choose.ring.transit := by
  have sent : s.sendLocal.ring.transit = s.ring.transit := Moves.transit (i := .linkUp) Moves.sendLocal
  unfold State.choose
  split
  · next f rest h =>
    split
    · exact .inr ⟨f, h⟩
    · exact .inl sent
  · exact .inl sent

/-- A received cell joins the transit FIFO at its tail, or is not forwarded. -/
theorem State.dispose_transit (s : State) (frame : List Byte) (bad : Bool) :
    (s.dispose frame bad).ring.transit = s.ring.transit
      ∨ ∃ f, (s.dispose frame bad).ring.transit = s.ring.transit ++ [f] := by
  unfold State.dispose
  simp only
  split
  · exact .inl rfl
  · split
    · exact .inl rfl
    · split
      · exact .inl (Moves.transit (i := .linkUp) (Moves.orphan _))
      · split
        · exact .inl rfl
        · exact .inr ⟨_, rfl⟩

theorem finishCell_transit (first : Bool) (s : State) :
    (finishCell first s).ring.transit = s.ring.transit
      ∨ ∃ f, s.ring.transit = f :: (finishCell first s).ring.transit := by
  unfold finishCell
  split
  · simp only
    generalize hu : ({ s with ring := { s.ring with out := none } } : State) = u
    have same : s.ring.transit = u.ring.transit := hu ▸ rfl
    rw [same]
    split
    · exact .inl rfl
    · split
      · exact .inl rfl
      · exact .inl (Moves.transit (i := .linkUp) (Moves.finishRequest _))
      · split
        · split
          · exact u.choose_transit
          · exact .inl rfl
        · exact .inl (Moves.transit (i := .linkUp) (Moves.finishReply _))
  · exact .inl rfl

theorem exec_transit (h : exec i s = .next t) (hi : ∀ pins, i ≠ .hardReset pins) :
    (t.ring.transit = s.ring.transit)
      ∨ (∃ frame bad f, i = .cellReceived frame bad ∧ t.ring.transit = s.ring.transit ++ [f])
      ∨ (∃ f, (∃ r, i = .ringOutChoice r ∨ i = .cellFinished r) ∧ s.ring.transit = f :: t.ring.transit) := by
  by_cases moves : movesTransit i = false
  · exact .inl (Moves.transit (exec_moves h) moves)
  · cases i with
    | hardReset pins => exact absurd rfl (hi pins)
    | cellReceived frame bad =>
      simp only [exec, execCellReceived] at h
      split at h
      · cases h
        exact .inl rfl
      · split at h
        · cases h
          rw [State.finish_transit]
          exact (s.dispose_transit frame bad).imp id fun ⟨f, e⟩ => .inl ⟨frame, bad, f, rfl, e⟩
        · cases h
    | ringOutChoice ready =>
      cases h
      unfold ringOutChoice
      split
      · exact s.choose_transit.imp id fun ⟨f, e⟩ => .inr ⟨f, ⟨ready, .inl rfl⟩, e⟩
      · exact .inl rfl
    | cellFinished first =>
      cases h
      rw [State.finish_transit]
      exact (finishCell_transit first s).imp id fun ⟨f, e⟩ => .inr ⟨f, ⟨first, .inr rfl⟩, e⟩
    | _ => exact absurd rfl moves

/-- Settles O60: the moves of each command change these fields only as it may. -/
theorem onlyTheseChange : Obligations.OnlyTheseChange := by
  intro i s t h
  obtain ⟨pending, now, ownSlot, memory, params⟩ := Moves.owned (exec_moves h)
  exact ⟨fun hi => ⟨ownSlot hi, memory hi, params hi, exec_transit h hi⟩, pending, now⟩

/-! ### Right after reset -/

theorem State.reset_bounded : State.reset.Bounded :=
  ⟨Nat.zero_le _, Nat.zero_le _, Nat.zero_le _, Nat.zero_le _, Nat.zero_le _,
    fun m => by cases m <;> exact Nat.zero_le _, .reset rfl rfl, memWf_reset⟩

/-- Settles O59, by what a reset leaves to each of the properties' forms that the moves keep. -/
theorem resetHoldsInvariants : Obligations.ResetHoldsInvariants := by
  have resetMover (m : MoverId) : State.reset.mover m = .reset := by cases m <;> rfl
  obtain ⟨capacity, params, memory⟩ := State.bounded_iff.1 State.reset_bounded
  obtain ⟨disjoint, counts, staged⟩ := State.windowsSound.reset (s := State.reset) rfl rfl
  obtain ⟨tags, buffers⟩ := State.countsSound_iff.1 (State.countsSound.reset (t := State.reset) rfl rfl resetMover)
  have deferred := State.deferralSound_iff.1 (State.deferralSound.reset (t := State.reset) rfl resetMover rfl)
  obtain ⟨records, stopped, settled⟩ := State.eventsSound.reset (t := State.reset) rfl rfl
  rw [← Bool.not_eq_true, State.attentionCondition_iff] at settled
  exact ⟨capacity, params, memory, ⟨rfl, fun _ => ⟨rfl, rfl⟩⟩, disjoint, counts, staged, tags, buffers, deferred,
    records, rfl, settled, stopped⟩

end Sys2Proof.Machine
end

section
/-! The step, the resets' values, the Event Unit's occurrences (R185, R189, R190), and ring-in (R139–R146). -/

namespace Sys2Proof.Machine

variable {s : State}

/-! ### The machine, and reset -/

/-- Settles O1: the step takes the front command apart from the queue's rest. -/
theorem stepTakesFrontCommand : Obligations.StepTakesFrontCommand := fun _ _ => rfl

/-- Settles O2, field by field. -/
theorem stateAtReset : Obligations.StateAtReset :=
  ⟨⟨rfl, rfl, rfl, rfl, rfl⟩, ⟨rfl, rfl, rfl⟩, fun i => Vector.getElem_replicate i.isLt,
    ⟨fun b => Vector.getElem_replicate b.isLt, rfl, rfl⟩, ⟨rfl, rfl, rfl, rfl⟩, ⟨rfl, rfl⟩,
    fun t => Vector.getElem_replicate t.isLt, rfl, ⟨rfl, rfl, rfl, rfl, rfl, rfl, rfl, rfl⟩, rfl,
    ⟨fun n => Vector.getElem_replicate n.isLt, rfl, rfl, rfl, rfl⟩, ⟨rfl, rfl, rfl⟩⟩

/-- The operation cut off on the bus changes the record of card memory, and the free counter, alone. -/
theorem State.cutOperation_frame (s : State) : ∃ mem k, s.cutOperation = { s with cardMem := mem, free := k } := by
  unfold State.cutOperation
  split
  · exact s.memoryEffect_frame _ _
  · exact ⟨s.cardMem, s.free, rfl⟩

/-- The operation cut off on the bus changes the bytes in the range of a write alone (R131). -/
theorem State.cutOperation_memory (s : State) (a : Nat)
    (outside : ∀ p bs, s.port.inFlight = some p → p.dir = .write bs →
      ¬(p.cardAddr.toNat ≤ a ∧ a < p.cardAddr.toNat + bs.length)) :
    memGet s.cutOperation.cardMem a = memGet s.cardMem a := by
  unfold State.cutOperation
  cases flying : s.port.inFlight with
  | none => rfl
  | some p =>
    dsimp only
    unfold State.memoryEffect
    cases dir : p.dir with
    | read => rfl
    | write bs =>
      have := outside p bs flying dir
      exact memGet_memLeave_outside _ _ _ _ _ (by omega)

/-- Settles O3: HARD_RESET builds the state from reset values and keeps what the operation on the bus leaves. -/
theorem hardResetState : Obligations.HardResetState := by
  intro pins s
  refine ⟨hardReset pins s, exec_hardReset pins s, ?_, fun a => s.cutOperation_memory a⟩
  obtain ⟨mem, k, cut⟩ := s.cutOperation_frame
  rw [hardReset, cut]
  rfl

/-! ### The Event Unit -/

/-- Settles O5: the occurrence is in its record before the attention condition is tested. -/
theorem occurrenceIsRecorded : Obligations.OccurrenceIsRecorded := by
  intro s e
  refine ⟨State.testAttention_frame _, ?_, fun n hn => ?_⟩ <;> rw [State.takeOccurrence_records]
  · exact Vector.getElem_set_self e.number.isLt
  · exact Vector.getElem_set_ne e.number.isLt n.isLt fun h => hn (Fin.ext h.symm)

/-- One more bit in a set of 16. -/
theorem getLsbD_or_bit (acc : Half) (n k : Fin 16) :
    (acc ||| (1#16 <<< n.val)).getLsbD k.val = (acc.getLsbD k.val || decide (n = k)) := by
  have bit : ∀ n k : Fin 16, (1#16 <<< n.val).getLsbD k.val = decide (n = k) := by decide
  rw [BitVec.getLsbD_or, bit]

/-- Bit `k` of the pending set says whether event `k` is pending (R192). -/
theorem EventUnit.pendingSet_bit (u : EventUnit) (k : Fin 16) :
    u.pendingSet.getLsbD k.val = u.records[k].pending := by
  have fold (l : List (Fin 16)) (acc : Half) :
      (l.foldl (fun acc n => if u.records[n].pending then acc ||| (1#16 <<< n.val) else acc) acc).getLsbD k.val
        = (acc.getLsbD k.val || (decide (k ∈ l) && u.records[k].pending)) := by
    induction l generalizing acc with
    | nil => simp
    | cons n l ih =>
      rw [List.foldl_cons, ih]
      by_cases h : n = k
      · subst h
        cases hp : u.records[n].pending <;> simp
      · have hk : k ≠ n := Ne.symm h
        rw [show decide (k ∈ n :: l) = decide (k ∈ l) by simp [hk]]
        split
        · rw [getLsbD_or_bit, decide_eq_false h, Bool.or_false]
        · rfl
  rw [EventUnit.pendingSet, fold]
  simp

/-- Settles O6, by the two outcomes of the test of the attention condition. -/
theorem attentionIsRaised : Obligations.AttentionIsRaised := by
  intro s e
  let noted : State :=
    { s with events := { s.events with records := s.events.records.set e.number s.events.records[e.number].bump } }
  have taken : s.takeOccurrence e = noted.testAttention := rfl
  have records : noted.testAttention.events.records = noted.events.records := noted.testAttention_records
  rw [taken]
  refine ⟨fun m idle manager unmasked => ?_, fun quiet => ?_⟩
  · have condition : noted.attentionCondition = true := by
      rw [State.attentionCondition_iff, ← records]
      exact ⟨idle, (Claim.manager_isSome _).1 (manager ▸ rfl), unmasked⟩
    have raised : noted.testAttention = noted.raiseAttention m := by
      rw [State.testAttention, show noted.mgmt.claim.manager = some m from manager]
      exact if_pos condition
    rw [raised]
    exact ⟨rfl, rfl, rfl, _, rfl, rfl, rfl, fun k => EventUnit.pendingSet_bit _ k⟩
  · have condition : noted.attentionCondition ≠ true := by
      rw [Ne, State.attentionCondition_iff, ← records]
      exact quiet
    rcases noted.testAttention_cases with h | ⟨m, -, due, -⟩
    · rw [h]
    · exact absurd due condition

/-! ### Ring-in -/

/-- A step that raises one event takes it. -/
theorem State.finish_raise (hb : s.between) (e : Event) : (s.raise e).finish = s.takeOccurrence e := by
  obtain ⟨none_raised, none_starts⟩ := hb
  rw [State.finish_one (s.raise e) e (by rw [State.raise_raised, none_raised, List.nil_append]) none_starts]
  simp only [State.raise, ← none_raised]

/-- Settles O7: a change of the link state ends with one occurrence, and no change with none. -/
theorem linkChanges : Obligations.LinkChanges := by
  intro s between
  have changes (l : Link) (h : s.ring.link ≠ l) : (s.setLink l).finish
      = State.takeOccurrence { s with ring := { s.ring with link := l } } .linkChange := by
    rw [State.setLink, if_neg h]
    exact State.finish_raise (s := { s with ring := { s.ring with link := l } }) between _
  have stays (l : Link) (h : s.ring.link = l) : (s.setLink l).finish = s := by
    rw [State.setLink, if_pos h, s.finish_between between]
  exact ⟨fun h => congrArg _ (changes .up (by rw [h]; decide)),
    fun h => congrArg _ (changes .down (by rw [h]; decide)),
    fun h => congrArg _ (stays .up h), fun h => congrArg _ (stays .down h)⟩

/-- The kinds that carry a payload, by their codes (R133). -/
theorem Header.payloadLength_eq (h : Header) : h.payloadLength =
    if h.kind = 1 ∨ h.kind = 3 ∨ h.kind = 6 ∨ h.kind = 7 ∨ h.kind = 8 then h.length.toNat else 0 := by
  have named : ∀ b : Byte, ((Kind.ofByte b).any Kind.carriesPayload = true
      ↔ b = 1 ∨ b = 3 ∨ b = 6 ∨ b = 7 ∨ b = 8) := by decide
  have kind := named h.kind
  unfold Header.payloadLength Header.kind?
  cases hk : Kind.ofByte h.kind with
  | none => simp only [hk, Option.any_none, Bool.false_eq_true, false_iff] at kind; rw [if_neg kind]
  | some k =>
    simp only [hk, Option.any_some] at kind
    simp only [kind]

/-- Settles O8: the extent of a header says the size that a frame must have. -/
theorem damagedFrames : Obligations.DamagedFrames := by
  intro frame bad
  have extent : (Header.ofBytes frame).extent ≠ some frame.length ↔
      ¬(if (byteAt frame 2 = 1 ∨ byteAt frame 2 = 3 ∨ byteAt frame 2 = 6 ∨ byteAt frame 2 = 7
          ∨ byteAt frame 2 = 8) ∧ 1 ≤ (byteAt frame 6).toNat
        then (byteAt frame 6).toNat ≤ 64 ∧ frame.length = 18 + (byteAt frame 6).toNat
        else frame.length = 16) := by
    rw [Header.extent, Header.payloadLength_eq]
    change ¬_ ↔ _
    rw [not_iff_not]
    change (let n := if byteAt frame 2 = 1 ∨ byteAt frame 2 = 3 ∨ byteAt frame 2 = 6 ∨ byteAt frame 2 = 7
          ∨ byteAt frame 2 = 8 then (byteAt frame 6).toNat else 0
      if n > 64 then none else some (if n = 0 then 16 else 18 + n)) = some frame.length ↔ _
    by_cases carries : byteAt frame 2 = 1 ∨ byteAt frame 2 = 3 ∨ byteAt frame 2 = 6 ∨ byteAt frame 2 = 7
        ∨ byteAt frame 2 = 8
    · simp only [carries, if_true, true_and]
      generalize (byteAt frame 6).toNat = n
      by_cases long : n > 64
      · have : 1 ≤ n := by omega
        simp [long, this]
      · rw [if_neg long, Option.some.injEq]
        split <;> split <;> omega
    · simp only [carries, if_false, false_and]
      simp [eq_comm]
  simp only [damaged, Bool.or_eq_true, decide_eq_true_eq, extent, ne_eq, or_assoc]

end Sys2Proof.Machine
end

section
/-! The disposition of a received cell (R142), and one of the part's own requests that comes back (R144). -/

namespace Sys2Proof.Machine

variable {s : State} {m : MoverId} {t : TagNo}

/-! ### The end of a step -/

theorem State.fetcher_start (hb : s.between) : s.fetcher.start = s.fetcher := Fetcher.start_idle _ hb.2

theorem State.atEnd_eq (hb : s.between) : s.atEnd = s := by
  rw [State.atEnd, State.fetcher_start hb, ← hb.1]

theorem State.atEnd_setMover (s : State) (m : MoverId) (v : Mover) :
    (s.setMover m v).atEnd = s.atEnd.setMover m v := by
  cases m <;> rfl

theorem State.setMover_raise (s : State) (m : MoverId) (v : Mover) (e : Event) :
    (s.raise e).setMover m v = (s.setMover m v).raise e := by
  cases m <;> rfl

theorem State.raise_eq (hb : s.between) (e : Event) : s.raise e = { s with raised := [e] } := by
  rw [State.raise, hb.1, List.nil_append]

/-- A tag goes to another entry, and its piece is given up: the owner counts one tag and one piece less. -/
theorem State.dropTag_dropPiece {x : Tag} (h : s.tags[t].owner = some m) :
    (s.dropTag t x).dropPiece m = (s.setTag t x).setMover m
      { s.mover m with tagsHeld := (s.mover m).tagsHeld - 1, piecesInFlight := (s.mover m).piecesInFlight - 1 } := by
  rw [State.dropTag, h, State.dropPiece]
  simp only [State.mover_setMover_same, State.setMover_setMover]

/-! ### The disposition of a received cell (R142) -/

section Received

variable {frame : List Byte} {bad : Bool}

theorem exec_cellReceived_ready (up : s.ring.link = .up) (transit : s.ring.transit.length < 4)
    (queue : s.inbound.queue.length < 8) :
    exec (.cellReceived frame bad) s = .next (s.dispose frame bad).finish := by
  have ready : s.ready = true := State.ready_iff.2 ⟨up, transit, queue⟩
  simp only [exec, execCellReceived, up, ready, if_true, reduceCtorEq, if_false]

theorem State.dispose_damaged (h : damaged frame bad = true) : s.dispose frame bad = s.raise .cellError :=
  if_pos h

theorem State.dispose_sound (h : damaged frame bad = false) : s.dispose frame bad =
    if (Header.ofBytes frame).dest = s.ownByte then
      { s with inbound := { s.inbound with queue := s.inbound.queue ++ [rxCellOf frame] } }
    else if (Header.ofBytes frame).source = s.ownByte then s.orphan (Header.ofBytes frame)
    else if (Header.ofBytes frame).hops = 0 then s.raise .cellDropped
    else { s with ring := { s.ring with transit := s.ring.transit ++ [forwardedFrame frame] } } := by
  simp only [State.dispose, h, Bool.false_eq_true, if_false]

end Received

section Orphans

variable {h : Header} {k : Kind}

/-- An orphan that is neither a READ nor a WRITE has no one to be told (R144). -/
theorem State.orphan_other (read : h.kind ≠ 2) (write : h.kind ≠ 1) : s.orphan h = s.raise .cellDropped := by
  have named : ∀ b : Byte, b ≠ 2 → b ≠ 1 → Kind.ofByte b ≠ some .read ∧ Kind.ofByte b ≠ some .write := by decide
  obtain ⟨not_read, not_write⟩ := named h.kind read write
  unfold State.orphan
  simp only
  split
  · next hk => exact absurd hk not_read
  · next hk => exact absurd hk not_write
  · rfl

theorem Header.ackReq_eq (h : Header) : h.ackReq = h.flags.getLsbD 0 := by
  have bit : ∀ f : Byte, decide ((f &&& ackReqFlag) ≠ 0) = f.getLsbD 0 := by decide
  exact bit h.flags

/-- An orphan of kind `k` is left to the Tag Table (R144). -/
def Header.notices (h : Header) (k : Kind) : Prop :=
  h.kind = k.code ∧ (k = .read ∨ k = .write ∧ h.flags.getLsbD 0 = true)

theorem State.orphan_notice (hk : h.notices k) : s.orphan h = (s.raise .cellDropped).orphanNotice h k := by
  obtain ⟨code, rfl | ⟨rfl, acked⟩⟩ := hk
  · simp only [State.orphan, Header.kind?_of_code code]
  · simp only [State.orphan, Header.kind?_of_code code, Header.ackReq_eq, acked, if_true]

theorem State.orphan_untracked (code : h.kind = 1) (plain : h.flags.getLsbD 0 ≠ true) :
    s.orphan h = (s.raise .cellDropped).untrackedOrphan h := by
  have kind : h.kind? = some .write := Header.kind?_of_code (k := .write) code
  simp only [State.orphan, kind, Header.ackReq_eq, if_neg plain]

/-- The entry's fields fit an orphan of kind `k` (R62). -/
def TagInfo.fitsOrphan (i : TagInfo) (h : Header) (k : Kind) : Prop :=
  h.dest = slotByte i.slot ∧ h.origin = moverByte i.origin
    ∧ ((∃ a, i.type = .read a) ∧ k = .read ∨ i.type = .ackedWrite ∧ k = .write)

theorem Tag.matchesOrphan_of_sentAs {x : Tag} {i : TagInfo} (hx : x.sentAs i) :
    x.matchesOrphan h k = true ↔ i.fitsOrphan h k := by
  have sent : x.sent = true ∧ x.info = some i := by
    rcases hx with ⟨d, rfl⟩ | ⟨d, rfl⟩ | ⟨e, rfl⟩ <;> exact ⟨rfl, rfl⟩
  unfold Tag.matchesOrphan TagInfo.fitsOrphan
  cases ht : i.type <;> simp [sent, ht, and_assoc]

theorem Tag.sentAs_of_sent {x : Tag} (h : x.sent = true) : ∃ i, x.sentAs i := by
  rcases x with _ | ⟨i, _ | d⟩ | ⟨i, _ | d⟩ | ⟨i, e⟩
  · cases h
  · cases h
  · exact ⟨i, .inl ⟨d, rfl⟩⟩
  · cases h
  · exact ⟨i, .inr (.inl ⟨d, rfl⟩)⟩
  · exact ⟨i, .inr (.inr ⟨e, rfl⟩)⟩

theorem State.orphanNotice_matched (ht : h.tag = byteOf t.val) {i : TagInfo} (hx : s.tags[t].sentAs i)
    (fits : i.fitsOrphan h k) : s.orphanNotice h k = match s.tags[t] with
      | .waiting i _ => ((s.freeTag t).dropPiece i.origin).takeFault i.origin (tagFault .noTaker t i none)
      | .abandoned i _ => ((s.freeTag t).dropPiece i.origin).checkQuiet i.origin
      | .quarantined _ _ => s.freeTag t
      | .free => s := by
  unfold State.orphanNotice
  rw [ht, tagOf_byteOf]
  simp only [(Tag.matchesOrphan_of_sentAs hx).2 fits, if_true] <;> rfl

theorem State.orphanNotice_unmatched
    (none_fits : ∀ (t : TagNo) (i : TagInfo), h.tag = byteOf t.val → s.tags[t].sentAs i → ¬i.fitsOrphan h k) :
    s.orphanNotice h k = s := by
  unfold State.orphanNotice
  split
  · rfl
  · next t ht =>
    split
    · next matched =>
      obtain ⟨i, hi⟩ := Tag.sentAs_of_sent (x := s.tags[t]) (by
        simp only [Tag.matchesOrphan, Bool.and_eq_true] at matched
        exact matched.1)
      exact absurd ((Tag.matchesOrphan_of_sentAs hi).1 matched) (none_fits t i ((tagOf_eq_some _ _).1 ht) hi)
    · rfl

end Orphans

/-- Settles O9, by the tests of R142 in their order. -/
theorem cellDisposition : Obligations.CellDisposition := by
  intro s frame bad hb h own p
  refine ⟨fun down => ?down, fun up full => ?full, fun up transit queue => ?ready⟩
  case down => simp only [exec, execCellReceived, down, if_true]
  case full =>
    have not_ready : s.ready = false := by
      rw [← Bool.not_eq_true, State.ready_iff]
      omega
    simp only [exec, execCellReceived, up, not_ready, reduceCtorEq, if_false, Bool.false_eq_true]
  case ready =>
    have step {u : State} (hu : s.dispose frame bad = u) : exec (.cellReceived frame bad) s = .next u.finish := by
      rw [exec_cellReceived_ready up transit queue, hu]
    have drops (hu : s.dispose frame bad = s.raise .cellDropped) :
        exec (.cellReceived frame bad) s = .next (s.takeOccurrence .cellDropped) := by
      rw [step hu, State.finish_raise hb]
    refine ⟨fun damaged => ?_, fun sound dest => ?_, fun sound dest source write read => drops ?_,
      fun sound dest source hops => drops ?_, fun sound dest source hops => ?_⟩
    · rw [step (State.dispose_damaged damaged), State.finish_raise hb]
    · rw [step ((State.dispose_sound sound).trans (if_pos dest))]
      exact congrArg _ (State.finish_between _ hb)
    · exact (State.dispose_sound sound).trans
        ((if_neg dest).trans ((if_pos source).trans (State.orphan_other read write)))
    · exact (State.dispose_sound sound).trans ((if_neg dest).trans ((if_neg source).trans (if_pos hops)))
    · rw [step ((State.dispose_sound sound).trans ((if_neg dest).trans ((if_neg source).trans (if_neg hops))))]
      exact congrArg _ (State.finish_between _ hb)

/-! ### What a mover is told (R36, R39, R42) -/

/-- A mover that drains only records a fault (R36). -/
theorem State.takeFault_drains {f : FaultRecord} (hd : (s.mover m).drains) (hz : f.further = 0) :
    s.takeFault m f = s.setMover m ((s.mover m).withFault f) := by
  have noted : (s.mover m).noteFault f = (s.mover m).withFault f := by
    unfold Mover.noteFault Mover.withFault
    obtain ⟨_, _, _, _, _, _⟩ := f
    cases hz
    split <;> simp only [*]
  rcases hd with hs | hs <;> simp only [State.takeFault, hs, noted]

theorem MoverState.carrying_iff (v : Mover) : v.state.carrying = true ↔ v.finishing := by
  unfold Mover.finishing
  cases h : v.state with
  | stopping c => cases c <;> simp [MoverState.carrying]
  | _ => simp [MoverState.carrying]

theorem MoverState.draining_iff (v : Mover) : v.state.draining = true ↔ v.drains := by
  unfold Mover.drains
  cases v.state <;> simp [MoverState.draining]

theorem Mover.currentAddr_of {v : Mover} {a : Addr} (h : v.currentAt a) : v.currentAddr = a := by
  rcases h with h | ⟨e, h, rfl⟩ <;> rw [Mover.currentAddr, h]

/-- The state with at most one occurrence on its way. -/
def State.raisedBy (s : State) (e : Option Event) : State := { s with raised := e.toList }

theorem State.raisedBy_mover (s : State) (e : Option Event) (m : MoverId) : (s.raisedBy e).mover m = s.mover m := by
  cases m <;> rfl

theorem State.setMover_raisedBy (s : State) (m : MoverId) (v : Mover) (e : Option Event) :
    (s.raisedBy e).setMover m v = (s.setMover m v).raisedBy e := by
  cases m <;> rfl

theorem State.raise_eq_raisedBy (hb : s.between) (e : Event) : s.raise e = s.raisedBy (some e) :=
  State.raise_eq hb e

theorem State.raisedBy_none (hb : s.between) : s.raisedBy none = s := by
  rw [State.raisedBy, Option.toList_none, ← hb.1]

/-- The end of a step with an occurrence, beside which a mover takes a fault. -/
theorem State.raisedBy_takeFault_faults (hb : s.between) {e : Option Event} {f : FaultRecord}
    (he : ∀ a ∈ e, a.mover? = none) (finishing : (s.mover m).finishing) (none_yet : (s.mover m).fault = none)
    (hz : f.further = 0) : s.faults m f e (.next ((s.raisedBy e).takeFault m f).finish) := by
  have faulted := State.takeFault_faults (s.raisedBy e) m f e rfl he (State.fetcher_start (s := s) hb)
    (by rwa [State.raisedBy_mover]) (by rwa [State.raisedBy_mover]) hz
  rwa [show (s.raisedBy e).atEnd = s from State.atEnd_eq hb] at faulted

/-- The end of a step with an occurrence, beside which a draining mover may be quiet. -/
theorem State.raisedBy_checkQuiet_released (hb : s.between) {e : Option Event} (he : ∀ a ∈ e, a.mover? = none) :
    s.released m e (.next ((s.raisedBy e).checkQuiet m).finish) := by
  have drained := State.checkQuiet_released (s.raisedBy e) m e rfl he
  rwa [show (s.raisedBy e).atEnd = s from State.atEnd_eq hb] at drained

/-- The step of an occurrence beside which a mover takes a fault. -/
theorem State.raise_takeFault_faults (hb : s.between) {e : Event} {f : FaultRecord} (he : e.mover? = none)
    (finishing : (s.mover m).finishing) (none_yet : (s.mover m).fault = none) (hz : f.further = 0) :
    s.faults m f (some e) (.next ((s.raise e).takeFault m f).finish) := by
  rw [State.raise_eq_raisedBy hb]
  exact State.raisedBy_takeFault_faults hb (by rintro a ⟨⟩; exact he) finishing none_yet hz

/-- The step of an occurrence beside which a draining mover may be quiet. -/
theorem State.raise_checkQuiet_released (hb : s.between) {e : Event} (he : e.mover? = none) :
    s.released m (some e) (.next ((s.raise e).checkQuiet m).finish) := by
  rw [State.raise_eq_raisedBy hb]
  exact State.raisedBy_checkQuiet_released hb (by rintro a ⟨⟩; exact he)

/-- What a mover that is told of an untracked orphan makes of it (R42). -/
theorem State.untrackedOrphan_told {h : Header} (origin : h.origin = moverByte m) :
    s.untrackedOrphan h =
      if (s.mover m).state.carrying || (s.mover m).state.draining then
        s.takeFault m (untrackedFault (s.mover m) .noTaker h.ringAddr none)
      else s := by
  rw [State.untrackedOrphan, origin, moverOf_moverByte]

/-- Settles O10: a READ or a tracked WRITE is a notice to the Tag Table, an untracked WRITE one to its mover. -/
theorem orphanNotice : Obligations.OrphanNotice := by
  intro s frame hb up transit queue sound h out dropped dest source acked fits
  have step {u : State} (hu : s.orphan h = u) : out = .next u.finish := by
    rw [← hu]
    refine (exec_cellReceived_ready up transit queue).trans ?_
    exact congrArg (fun u : State => Host.Outcome.next u.finish)
      ((State.dispose_sound sound).trans ((if_neg dest).trans (if_pos source)))
  have drops (hu : s.orphan h = s.raise .cellDropped) : dropped := (step hu).trans (by rw [State.finish_raise hb])
  have noticed : h.kind = 2 ∨ h.kind = 1 ∧ acked → ∃ k : Kind, h.notices k ∧ ∀ i, i.fitsOrphan h k → fits i := by
    rintro (read | ⟨write, ack⟩)
    · refine ⟨.read, ⟨read, .inl rfl⟩, fun i ⟨slot, origin, type⟩ => ⟨slot, origin, .inl ⟨read, ?_⟩⟩⟩
      rcases type with ⟨ty, -⟩ | ⟨-, k⟩
      · exact ty
      · cases k
    · refine ⟨.write, ⟨write, .inr ⟨rfl, ack⟩⟩, fun i ⟨slot, origin, type⟩ =>
        ⟨slot, origin, .inr ⟨write, ack, ?_⟩⟩⟩
      rcases type with ⟨-, k⟩ | ⟨ty, -⟩
      · cases k
      · exact ty
  refine ⟨fun t i tag fit => ?_, fun notice none_fits => ?_, fun write plain => ⟨fun above => ?_, fun m origin => ?_⟩⟩
  · obtain ⟨slot, origin, type⟩ := fit
    have ⟨k, notice, fitsK⟩ : ∃ k : Kind, h.notices k ∧ i.fitsOrphan h k := by
      rcases type with ⟨read, ty⟩ | ⟨write, ack, ty⟩
      · exact ⟨.read, ⟨read, .inl rfl⟩, slot, origin, .inl ⟨ty, rfl⟩⟩
      · exact ⟨.write, ⟨write, .inr ⟨rfl, ack⟩⟩, slot, origin, .inr ⟨ty, rfl⟩⟩
    intro v freed given
    have freed_between : freed.between := hb
    have given_between : given.between := freed_between.setMover _ _
    have matched (sent : s.tags[t].sentAs i) := (State.orphan_notice notice (s := s)).trans
      (State.orphanNotice_matched (s := s.raise .cellDropped) tag sent fitsK)
    have gave (owner : s.tags[t].owner = some i.origin) :
        ((s.raise .cellDropped).freeTag t).dropPiece i.origin = given.raise .cellDropped := by
      rw [State.freeTag, State.dropTag_dropPiece (s := s.raise .cellDropped) owner, State.raise_mover]
      exact freed.setMover_raise i.origin _ .cellDropped
    have state : (given.mover i.origin) = { v with
        tagsHeld := v.tagsHeld - 1, piecesInFlight := v.piecesInFlight - 1 } := State.mover_setMover_same ..
    refine ⟨fun e quarantined => ?_, fun d waiting none_yet finishing => ?_, fun d abandoned => ?_⟩
    · have freeing := matched (.inr (.inr ⟨e, quarantined⟩))
      simp only [State.raise_tags, quarantined] at freeing
      rw [step freeing, State.freeTag_of_unowned (by rw [State.raise_tags, quarantined]; rfl)]
      exact congrArg _ (State.finish_raise freed_between .cellDropped)
    · have faulting := matched (.inl ⟨_, waiting⟩)
      simp only [State.raise_tags, waiting] at faulting
      rw [step faulting, gave (by rw [waiting]; rfl)]
      exact State.raise_takeFault_faults given_between rfl (by rw [state]; exact finishing)
        (by rw [state]; exact none_yet) rfl
    · have draining := matched (.inr (.inl ⟨_, abandoned⟩))
      simp only [State.raise_tags, abandoned] at draining
      rw [step draining, gave (by rw [abandoned]; rfl)]
      exact State.raise_checkQuiet_released given_between rfl
  · obtain ⟨k, notice, unfit⟩ := noticed notice
    refine drops ((State.orphan_notice notice).trans (State.orphanNotice_unmatched fun t i tag sent fit => ?_))
    exact none_fits t i tag sent (unfit i fit)
  · refine drops ((State.orphan_untracked write plain).trans ?_)
    rw [State.untrackedOrphan, moverOf_none above]
  · have told := (State.orphan_untracked (s := s) write plain).trans (State.untrackedOrphan_told origin)
    rw [State.raise_mover] at told
    have faulted (active : (s.mover m).state.carrying || (s.mover m).state.draining) {a : Addr}
        (current : (s.mover m).currentAt a) : s.orphan h = (s.raise .cellDropped).takeFault m
          { kind := .noTaker, elemAddr := a, remote := some h.ringAddr, tag := none, nak := none, further := 0 } := by
      rw [told, if_pos active, untrackedFault, Mover.currentAddr_of current]
    refine ⟨fun e finishing element none_yet => ?_, fun a drains current => ?_, fun not_finishing not_draining => ?_⟩
    · rw [step (faulted (by rw [(MoverState.carrying_iff _).2 finishing]; rfl) (.inr ⟨e, element, rfl⟩))]
      exact State.raise_takeFault_faults hb rfl finishing none_yet rfl
    · rw [step (faulted (by rw [(MoverState.draining_iff _).2 drains, Bool.or_true]) current),
        State.takeFault_drains (by rwa [State.raise_mover]) rfl, State.raise_mover]
      rw [State.setMover_raise, State.finish_raise (hb.setMover m _)]
    · refine drops (told.trans (if_neg ?_))
      rw [Bool.or_eq_true, MoverState.carrying_iff, MoverState.draining_iff]
      exact not_or.2 ⟨not_finishing, not_draining⟩

end Sys2Proof.Machine
end

section
/-! Ring-out: the arbiter's choice (R148), the finish of a cell (R27, R51, R110, R150) and the reset point (R155,
R183). -/

namespace Sys2Proof.Machine

variable {s : State} {m : MoverId} {b : BufNo}

/-! ### What starts on ring-out -/

/-- Both local queues are empty. -/
theorem State.localWaiting_eq_false : s.localWaiting = false ↔ s.replyQueue = [] ∧ s.requestQueue = [] := by
  simp [State.localWaiting]

theorem State.choose_of_transit {f : List Byte} {rest : List (List Byte)} (transit : s.ring.transit = f :: rest)
    (may : (s.replyQueue = [] ∧ s.requestQueue = []) ∨ s.ring.passCounter < s.mgmt.params.passCount) :
    s.choose = State.begin { s with ring := { s.ring with transit := rest } } .transit f
      (if s.replyQueue = [] ∧ s.requestQueue = [] then s.ring.passCounter else s.ring.passCounter + 1) := by
  have counter : (if s.localWaiting then s.ring.passCounter + 1 else s.ring.passCounter)
      = if s.replyQueue = [] ∧ s.requestQueue = [] then s.ring.passCounter else s.ring.passCounter + 1 := by
    by_cases idle : s.replyQueue = [] ∧ s.requestQueue = []
    · rw [if_pos idle, State.localWaiting_eq_false.2 idle, if_neg (by decide)]
    · have waiting : s.localWaiting = true := by rwa [← Bool.not_eq_false, State.localWaiting_eq_false]
      rw [if_neg idle, if_pos waiting]
  rw [← State.localWaiting_eq_false] at may
  unfold State.choose
  rw [transit]
  dsimp only
  rw [if_pos may, counter]

theorem State.choose_of_local (waiting : ¬(s.replyQueue = [] ∧ s.requestQueue = []))
    (stays : s.ring.transit = [] ∨ ¬s.ring.passCounter < s.mgmt.params.passCount) : s.choose = s.sendLocal := by
  rw [← State.localWaiting_eq_false] at waiting
  unfold State.choose
  split
  · next f rest transit =>
    have full := stays.resolve_left (by rw [transit]; nofun)
    rw [if_neg (not_or.2 ⟨waiting, full⟩)]
  · rfl

theorem State.choose_of_nothing (transit : s.ring.transit = [])
    (idle : s.replyQueue = [] ∧ s.requestQueue = []) : s.choose = s := by
  unfold State.choose
  rw [transit]
  unfold State.sendLocal
  rw [idle.1, idle.2]

theorem State.sendBuffer_queued {h : Holder} {d : List Byte} {cell header : Header}
    (hb : s.pool[b] = .held h (.queued d cell)) :
    s.sendBuffer (some b) header = s.setBuffer b (.held h (.sending d header)) := by
  simp only [State.sendBuffer, State.stageBuffer, hb, Buffer.data]

/-- A reply without a buffer starts. -/
theorem State.sendLocal_reply {c : ReplyCell} {rest : List ReplyCell} {bs : List Byte}
    (queue : s.replyQueue = c :: rest) (payload : (c.payload = .none ∧ bs = []) ∨ c.payload = .bytes bs) :
    s.sendLocal = State.begin { s with replyQueue := rest } (.reply c) (cellFrame c.header bs) 0 := by
  unfold State.sendLocal
  rw [queue]
  rcases payload with ⟨hp, rfl⟩ | hp <;>
    simp only [RingSource.buffer, State.sendBuffer, State.replyBytes, hp]

/-- A DATA starts, and its buffer goes to SENDING. -/
theorem State.sendLocal_data {c : ReplyCell} {rest : List ReplyCell} {h : Holder} {d : List Byte} {cell : Header}
    (queue : s.replyQueue = c :: rest) (payload : c.payload = .buffer b)
    (hb : s.pool[b] = .held h (.queued d cell)) :
    s.sendLocal = State.begin
      { s with replyQueue := rest, pool := s.pool.set b (.held h (.sending d c.header)) } (.reply c)
      (cellFrame c.header d) 0 := by
  unfold State.sendLocal
  rw [queue]
  simp only [RingSource.buffer, State.replyBytes, payload]
  rw [State.sendBuffer_queued (s := { s with replyQueue := rest }) hb, hb]
  rfl

/-- A READ starts. -/
theorem State.sendLocal_read {c : RequestCell} {rest : List RequestCell} (replies : s.replyQueue = [])
    (queue : s.requestQueue = c :: rest) (buffer : c.buffer = none) :
    s.sendLocal = State.begin { s with requestQueue := rest } (.request c) (cellFrame c.header []) 0 := by
  unfold State.sendLocal
  rw [replies, queue]
  simp only [State.sendBuffer, State.requestBytes, buffer]

/-- A WRITE starts, and its buffer goes to SENDING. -/
theorem State.sendLocal_write {c : RequestCell} {rest : List RequestCell} {h : Holder} {d : List Byte}
    {cell : Header} (replies : s.replyQueue = []) (queue : s.requestQueue = c :: rest) (buffer : c.buffer = some b)
    (hb : s.pool[b] = .held h (.queued d cell)) :
    s.sendLocal = State.begin
      { s with requestQueue := rest, pool := s.pool.set b (.held h (.sending d c.header)) } (.request c)
      (cellFrame c.header d) 0 := by
  have sends := State.sendBuffer_queued (s := { s with requestQueue := rest }) (header := c.header) hb
  unfold State.sendLocal
  split
  · next h => rw [replies] at h; cases h
  · next h =>
    cases queue.symm.trans h
    simp only [State.requestBytes, buffer]
    rw [sends, hb]
    rfl
  · next h => rw [queue] at h; cases h

end Sys2Proof.Machine

namespace Sys2Proof

open Machine in
/-- Settles O11, by what the arbiter chooses and what the local queues' heads come to. -/
theorem ringOutChoice : Obligations.RingOutChoice := by
  intro s
  refine ⟨rfl, fun o busy => ?_, ?_⟩
  · simp only [exec, execRingOutChoice, Machine.ringOutChoice, busy, Option.isNone_some, Bool.and_false,
      Bool.false_eq_true, if_false]
  · intro free idle pass
    have chosen : exec (.ringOutChoice true) s = .next s.choose := by
      simp only [exec, execRingOutChoice, Machine.ringOutChoice, free, Option.isNone_none, Bool.and_true, if_true]
    have reply {c : ReplyCell} {rest : List ReplyCell} (queue : s.replyQueue = c :: rest) : ¬idle :=
      fun none_left => by rw [none_left.1] at queue; cases queue
    have request {c : RequestCell} {rest : List RequestCell} (queue : s.requestQueue = c :: rest) : ¬idle :=
      fun none_left => by rw [none_left.2] at queue; cases queue
    rw [chosen]
    refine ⟨fun f rest transit may => ?_, fun c rest bs queue stays payload => ?_,
      fun c rest b d cell queue stays payload hb => ?_, fun c rest replies queue stays buffer => ?_,
      fun c rest b m d cell replies queue stays buffer hb => ?_, fun none_left transit => ?_⟩ <;> apply congrArg
    · exact State.choose_of_transit transit may
    · exact (State.choose_of_local (reply queue) stays).trans (State.sendLocal_reply queue payload)
    · exact (State.choose_of_local (reply queue) stays).trans (State.sendLocal_data queue payload hb)
    · exact (State.choose_of_local (request queue) stays).trans (State.sendLocal_read replies queue buffer)
    · exact (State.choose_of_local (request queue) stays).trans (State.sendLocal_write replies queue buffer hb)
    · exact State.choose_of_nothing transit none_left

end Sys2Proof

namespace Sys2Proof.Machine

variable {s : State} {m : MoverId} {b : BufNo}

/-! ### The finish of a cell -/

/-- Ring-out is free. -/
abbrev State.outFree (s : State) : State := { s with ring := { s.ring with out := none } }

theorem finishCell_quietly {o : OnRing} {first : Bool} (out : s.ring.out = some o)
    (h : o.beforeReset = true ∨ o.source = .transit) : finishCell first s = s.outFree := by
  unfold finishCell
  rw [out]
  rcases h with before | transit
  · simp only [before, if_true]
  · simp only [transit, ite_self]

theorem finishCell_reply {o : OnRing} {c : ReplyCell} {first : Bool} (out : s.ring.out = some o)
    (after : o.beforeReset = false) (source : o.source = .reply c) (plain : c.isReset = false) :
    finishCell first s = s.outFree.finishReply c := by
  unfold finishCell
  rw [out]
  simp only [after, source, plain, Bool.false_eq_true, if_false]

theorem finishCell_request {o : OnRing} {c : RequestCell} {first : Bool} (out : s.ring.out = some o)
    (after : o.beforeReset = false) (source : o.source = .request c) :
    finishCell first s = s.outFree.finishRequest c := by
  unfold finishCell
  rw [out]
  simp only [after, source, Bool.false_eq_true, if_false]

theorem finishCell_reset {o : OnRing} {c : ReplyCell} {first : Bool} (out : s.ring.out = some o)
    (after : o.beforeReset = false) (source : o.source = .reply c) (reset : c.isReset = true) :
    finishCell first s = (if first then s.outFree.choose else s.outFree).nodeReset := by
  unfold finishCell
  rw [out]
  simp only [after, source, reset, Bool.false_eq_true, if_false, if_true]

/-- A buffer of the Responder's is freed. -/
theorem State.freeBuffer_responder {st : BufStage} (hb : s.pool[b] = .held .responder st) :
    s.freeBuffer b = s.setBuffer b .free := by
  simp only [State.freeBuffer, hb]

/-- A mover's buffer is freed, and the mover counts one less (R109). -/
theorem State.freeBuffer_mover {st : BufStage} (hb : s.pool[b] = .held (.mover m) st) :
    s.freeBuffer b = (s.setBuffer b .free).setMover m
      { s.mover m with buffersHeld := (s.mover m).buffersHeld - 1 } := by
  simp only [State.freeBuffer, hb]

/-- Settles O12: none of these finishes raises an event. -/
theorem finishWithoutReport : Obligations.FinishWithoutReport := by
  intro s o first hb out t
  have step {u : State} (hu : finishCell first s = u) (between : u.between) :
      exec (.cellFinished first) s = .next u := by
    rw [← State.finish_between u between, ← hu]
    rfl
  refine ⟨fun quietly => step (finishCell_quietly out quietly) hb, fun c after source plain payload => ?_,
    fun c b d cell after source plain payload sending => ?_⟩
  · refine step ((finishCell_reply out after source plain).trans ?_) hb
    unfold State.finishReply
    split
    · next b hp => exact absurd hp (payload b)
    · rfl
  · refine step ((finishCell_reply out after source plain).trans ?_) hb
    simp only [State.finishReply, payload, sending, Buffer.sendingNow, if_true]
    exact State.freeBuffer_responder sending

/-- Settles O15: the reset point keeps what the arbiter has chosen before it, if anything. -/
theorem resetPoint : Obligations.ResetPoint := by
  intro s o c out after source reset state idle pass sent
  have step (first : Bool) {u : State} (hu : (if first then s.outFree.choose else s.outFree) = u) :
      exec (.cellFinished first) s = .next u.nodeReset := by
    rw [← State.finish_between u.nodeReset ⟨rfl, fun _ => ⟨rfl, rfl⟩⟩, ← hu, ← finishCell_reset out after source reset]
    rfl
  have chosen {u : State} (hu : s.outFree.choose = u) : exec (.cellFinished true) s = .next u.nodeReset :=
    step true hu
  have reply {r : ReplyCell} {rest : List ReplyCell} (queue : s.replyQueue = r :: rest) : ¬idle :=
    fun none_left => by rw [none_left.1] at queue; cases queue
  have request {q : RequestCell} {rest : List RequestCell} (queue : s.requestQueue = q :: rest) : ¬idle :=
    fun none_left => by rw [none_left.2] at queue; cases queue
  refine ⟨step false rfl, fun f rest transit may => ?_, fun stays => ⟨fun r rest queue => ?_,
    fun q rest replies queue => ?_⟩, fun transit none_left => ?_⟩
  · exact chosen (State.choose_of_transit (s := s.outFree) transit may)
  · have locally := State.choose_of_local (s := s.outFree) (reply queue) stays
    refine ⟨fun payload => ?_, fun bs payload => ?_, fun b h d cell payload hb => ?_⟩
    · exact chosen (locally.trans (State.sendLocal_reply queue (.inl ⟨payload, rfl⟩)))
    · exact chosen (locally.trans (State.sendLocal_reply queue (.inr payload)))
    · exact chosen (locally.trans (State.sendLocal_data queue payload hb))
  · have locally := State.choose_of_local (s := s.outFree) (request queue) stays
    refine ⟨fun buffer => ?_, fun b h d cell buffer hb => ?_⟩
    · exact chosen (locally.trans (State.sendLocal_read replies queue buffer))
    · exact chosen (locally.trans (State.sendLocal_write replies queue buffer hb))
  · refine (chosen (State.choose_of_nothing (s := s.outFree) transit none_left)).trans ?_
    simp only [state, ← transit]
    rfl

end Sys2Proof.Machine
end

section
/-! The finish of a request cell: an untracked WRITE settles its piece, a tracked cell starts its deadline (R27, R29,
R51, R110). -/

namespace Sys2Proof.Machine

variable {s : State} {m : MoverId} {b : BufNo}

/-! ### A mover that does not drain -/

/-- The test for quiet changes a draining mover alone (R39). -/
theorem State.checkQuiet_of_not_drains (h : ¬(s.mover m).drains) : s.checkQuiet m = s := by
  unfold State.checkQuiet
  split
  · split
    · next hs => exact absurd (.inl hs) h
    · next hs => exact absurd (.inr hs) h
    · rfl
  · rfl

theorem State.checkQuiet_of_not_quiet (h : ¬s.isQuiet m) : s.checkQuiet m = s := by
  rw [← State.quiet_iff] at h
  exact if_neg h

/-- A mover that does not drain: nothing is left of a release (R39). -/
theorem Mover.not_drains_of_finishing {v : Mover} (h : v.finishing) : ¬v.drains := by
  rintro (hd | hd) <;> rcases h with h | h <;> rw [h] at hd <;> cases hd

theorem State.becomeCurrent_not_drains (s : State) (m : MoverId) (e : Element) :
    ¬((s.becomeCurrent m e).mover m).drains := by
  unfold State.becomeCurrent
  simp only
  split <;> try split
  all_goals simp [Mover.drains]

theorem State.haltMover_not_drains (s : State) (m : MoverId) : ¬((s.haltMover m).mover m).drains := by
  simp [State.haltMover, Mover.drains, Mover.rest]

theorem State.endList_not_drains (s : State) (m : MoverId) (r : Option Addr) :
    ¬((s.endList m r).mover m).drains := by
  simp [State.endList, Mover.drains, Mover.rest]

theorem State.chain_not_drains (s : State) (m : MoverId) (a : Addr) : ¬((s.chain m a).mover m).drains := by
  unfold State.chain
  simp only
  split
  · exact State.becomeCurrent_not_drains _ _ _
  · simp [State.enterFetching, Mover.drains]
  · exact State.haltMover_not_drains _ _
  · simp [State.enterFetching, Mover.drains]

theorem State.completeElement_not_drains (s : State) (m : MoverId) (e : Element) :
    ¬((s.completeElement m e).mover m).drains := by
  unfold State.completeElement
  simp only
  split
  · exact State.chain_not_drains _ _ _
  · exact State.endList_not_drains _ _ _

theorem State.completeStopped_not_drains (e : Element) (h : (s.mover m).state = .stopping .element) :
    ¬((s.completeStopped m e).mover m).drains := by
  unfold State.completeStopped
  simp only
  split
  · simp [State.countElement_mover, h, Mover.drains]
  · exact State.endList_not_drains _ _ _

/-! ### A piece that settles (R29, R30, R33) -/

section Settles

variable {e : Element} {x : Xfer} {n : Nat}

/-- The mover with `n` bytes more settled and a piece less in flight. -/
def State.pieceSettled (s : State) (m : MoverId) (n : Nat) : State :=
  s.setMover m { s.mover m with
    settled := (s.mover m).settled + n, piecesInFlight := (s.mover m).piecesInFlight - 1 }

theorem State.pieceSettled_mover (s : State) (m : MoverId) (n : Nat) : (s.pieceSettled m n).mover m =
    { s.mover m with
      settled := (s.mover m).settled + n, piecesInFlight := (s.mover m).piecesInFlight - 1 } :=
  State.mover_setMover_same ..

/-- The settling of a piece of the current element `e`. -/
theorem State.settlePiece_eq (current : (s.mover m).current = .element e) (xfer : e.xfer = some x) :
    s.settlePiece m n =
      if (s.mover m).settled + n = x.byteCount then
        match (s.mover m).state with
        | .moving => (s.pieceSettled m n).completeElement m e
        | .stopping .element => (s.pieceSettled m n).completeStopped m e
        | _ => s.pieceSettled m n
      else s.pieceSettled m n := by
  simp only [State.settlePiece, State.pieceSettled, current, xfer] <;> rfl

theorem State.settlePiece_unfinished (current : (s.mover m).current = .element e) (xfer : e.xfer = some x)
    (h : (s.mover m).settled + n ≠ x.byteCount ∨ ¬(s.mover m).finishing) :
    s.settlePiece m n = s.pieceSettled m n := by
  rw [State.settlePiece_eq current xfer]
  split
  · next all =>
    have not_finishing := h.resolve_left (not_not.2 all)
    split
    · next hs => exact absurd (.inl hs) not_finishing
    · next hs => exact absurd (.inr hs) not_finishing
    · rfl
  · rfl

/-- The last bytes of a mover that finishes pieces complete its element, and the mover does not drain then. -/
theorem State.settlePiece_completes (hb : s.between) (current : (s.mover m).current = .element e)
    (xfer : e.xfer = some x) (all : (s.mover m).settled + n = x.byteCount) (finishing : (s.mover m).finishing) :
    (s.pieceSettled m n).completes m e (.next ((s.settlePiece m n).checkQuiet m).finish) := by
  have between : (s.pieceSettled m n).between := hb.setMover m _
  have state : ((s.pieceSettled m n).mover m).state = (s.mover m).state := by rw [State.pieceSettled_mover]
  rw [State.settlePiece_eq current xfer, if_pos all]
  rcases finishing with hs | hs <;> simp only [hs] <;> rw [hs] at state
  · rw [State.checkQuiet_of_not_drains (State.completeElement_not_drains _ _ _)]
    exact State.completeElement_completes _ m e between state
  · rw [State.checkQuiet_of_not_drains (State.completeStopped_not_drains e state)]
    exact State.completeStopped_completes _ m e between state

/-- What the settling of a piece comes to at the end of its step, for each state of a mover with an element. -/
theorem State.settlePiece_finish (hb : s.between) (current : (s.mover m).current = .element e)
    (xfer : e.xfer = some x) :
    ((s.mover m).finishing → (s.mover m).settled + n ≠ x.byteCount →
      ((s.settlePiece m n).checkQuiet m).finish = s.pieceSettled m n)
    ∧ ((s.mover m).finishing → (s.mover m).settled + n = x.byteCount →
      (s.pieceSettled m n).completes m e (.next ((s.settlePiece m n).checkQuiet m).finish))
    ∧ ((s.mover m).drains → (s.pieceSettled m n).released m none
      (.next ((s.settlePiece m n).checkQuiet m).finish)) := by
  have between : (s.pieceSettled m n).between := hb.setMover m _
  refine ⟨fun finishing left => ?_, fun finishing all => State.settlePiece_completes hb current xfer all finishing,
    fun drains => ?_⟩
  · rw [State.settlePiece_unfinished current xfer (.inl left), State.checkQuiet_of_not_drains,
      State.finish_between _ between]
    rw [State.pieceSettled_mover]
    exact Mover.not_drains_of_finishing finishing
  · have not_finishing : ¬(s.mover m).finishing := fun h => Mover.not_drains_of_finishing h drains
    rw [State.settlePiece_unfinished current xfer (.inr not_finishing)]
    have released := State.checkQuiet_released (s.pieceSettled m n) m none between.1 nofun
    rwa [State.atEnd_eq between] at released

end Settles

/-! ### The finish of a WRITE (R27, R110) -/

section Finish

variable {c : RequestCell} {d : List Byte} {cell : Header} {t : TagNo}

/-- The buffer of a WRITE that finishes is freed. -/
def State.bufferFreed (s : State) (m : MoverId) (b : BufNo) : State :=
  State.setMover { s with pool := s.pool.set b .free } m
    { s.mover m with buffersHeld := (s.mover m).buffersHeld - 1 }

theorem State.bufferFreed_mover (s : State) (m : MoverId) (b : BufNo) : (s.bufferFreed m b).mover m =
    { s.mover m with buffersHeld := (s.mover m).buffersHeld - 1 } := State.mover_setMover_same ..

theorem State.between.bufferFreed (hb : s.between) (m : MoverId) (b : BufNo) : (s.bufferFreed m b).between :=
  State.between.setMover (s := { s with pool := s.pool.set b .free }) hb m _

theorem State.outFree_mover (s : State) (m : MoverId) : s.outFree.mover m = s.mover m := by
  cases m <;> rfl

theorem State.finishWrite_untracked (untracked : c.header.tag = 0xFF)
    (sending : s.pool[b] = .held (.mover c.mover) (.sending d cell)) :
    s.finishWrite c b =
      ((s.bufferFreed c.mover b).settlePiece c.mover c.header.length.toNat).checkQuiet c.mover := by
  have no_tag : tagOf c.header.tag = none := by rw [untracked]; rfl
  have freed : s.freeBuffer b = s.bufferFreed c.mover b := State.freeBuffer_mover sending
  have is_sending : s.pool[b].sendingNow = true := by rw [sending]; rfl
  simp only [State.finishWrite, is_sending, no_tag, freed, if_true]

theorem State.finishWrite_tracked (tag : c.header.tag = byteOf t.val)
    (sending : s.pool[b] = .held (.mover c.mover) (.sending d cell)) :
    s.finishWrite c b = (State.bufferFreed
      { s with tags := s.tags.set t (s.tags[t].startDeadline (s.now + 16 * s.mgmt.params.responseTimeout)) }
        c.mover b).checkQuiet c.mover := by
  have has_tag : tagOf c.header.tag = some t := by rw [tag, tagOf_byteOf]
  have freed : s.freeBuffer b = s.bufferFreed c.mover b := State.freeBuffer_mover sending
  have is_sending : s.pool[b].sendingNow = true := by rw [sending]; rfl
  have started : (s.bufferFreed c.mover b).startDeadline t = State.bufferFreed
      { s with tags := s.tags.set t (s.tags[t].startDeadline (s.now + 16 * s.mgmt.params.responseTimeout)) }
        c.mover b := by
    unfold State.bufferFreed
    cases c.mover <;> rfl
  simp only [State.finishWrite, is_sending, has_tag, freed, started, if_true]

end Finish

/-- Settles O13: the buffer is freed, and the piece settles. -/
theorem finishedUntrackedWrite : Obligations.FinishedUntrackedWrite := by
  intro s o c b d cell e x first hb out after source buffer untracked sending v current xfer
  have step : exec (.cellFinished first) s = .next
      ((((s.outFree).bufferFreed c.mover b).settlePiece c.mover c.header.length.toNat).checkQuiet c.mover).finish := by
    have finished := finishCell_request (first := first) out after source
    simp only [State.finishRequest, buffer] at finished
    rw [State.finishWrite_untracked (s := s.outFree) untracked sending] at finished
    exact congrArg (fun u : State => Host.Outcome.next u.finish) finished
  have between : ((s.outFree).bufferFreed c.mover b).between := State.between.bufferFreed (s := s.outFree) hb _ b
  have mover : ((s.outFree).bufferFreed c.mover b).mover c.mover = { v with buffersHeld := v.buffersHeld - 1 } := by
    rw [State.bufferFreed_mover, State.outFree_mover]
  have settled : ((s.outFree).bufferFreed c.mover b).pieceSettled c.mover c.header.length.toNat
      = State.setMover
        { s with ring := { s.ring with out := none }, pool := s.pool.set b .free } c.mover
        { v with
          buffersHeld := v.buffersHeld - 1, settled := v.settled + c.header.length.toNat
          piecesInFlight := v.piecesInFlight - 1 } := by
    rw [State.pieceSettled, mover, State.bufferFreed, State.setMover_setMover]
  obtain ⟨stays, completes, drains⟩ := State.settlePiece_finish (n := c.header.length.toNat) between
    (by rw [mover]; exact current) xfer
  rw [mover, settled] at stays completes drains
  rw [step]
  exact ⟨fun finishing left => congrArg _ (stays finishing left), completes, drains⟩

/-- A mover that owns a tag is not quiet (R39). -/
theorem State.not_quiet_of_owner {t : TagNo} (h : s.tags[t].owner = some m) : ¬s.isQuiet m :=
  fun quiet => quiet.1 t h

/-- Settles O14: a tag with its deadline to start belongs to a mover, which is not quiet then. -/
theorem finishStartsDeadline : Obligations.FinishStartsDeadline := by
  intro s o c t first hb out after source tag
  have has_tag : tagOf c.header.tag = some t := by rw [tag, tagOf_byteOf]
  intro result ended freed start
  have mover (x : Tag) (m : MoverId) : (ended x).mover m = s.mover m := by cases m <;> rfl
  have freed_eq (x : Tag) (b : BufNo) : State.bufferFreed (ended x) c.mover b = freed (ended x) b := by
    rw [State.bufferFreed, mover]
  have freed_tags (x : Tag) (b : BufNo) : (freed (ended x) b).tags[t] = x := by
    rw [show (freed (ended x) b).tags = s.tags.set t x from State.setMover_tags ..]
    exact Vector.getElem_set_self t.isLt
  have freed_between (x : Tag) (b : BufNo) : (freed (ended x) b).between :=
    freed_eq x b ▸ State.between.bufferFreed (s := ended x) hb _ b
  have finished := finishCell_request (first := first) out after source
  have read (buffer : c.buffer = none) : result = .next
      (ended (s.tags[t].startDeadline (s.now + 16 * s.mgmt.params.responseTimeout))) := by
    simp only [State.finishRequest, buffer, has_tag] at finished
    exact (congrArg (fun u : State => Host.Outcome.next u.finish) finished).trans
      (congrArg _ (State.finish_between _ hb))
  have write {b : BufNo} {d : List Byte} {cell : Header} (buffer : c.buffer = some b)
      (sending : s.pool[b] = .held (.mover c.mover) (.sending d cell)) : result = .next
      ((freed (ended (s.tags[t].startDeadline (s.now + 16 * s.mgmt.params.responseTimeout))) b).checkQuiet
        c.mover).finish := by
    simp only [State.finishRequest, buffer] at finished
    rw [State.finishWrite_tracked (s := s.outFree) tag sending] at finished
    rw [← freed_eq]
    exact congrArg (fun u : State => Host.Outcome.next u.finish) finished
  refine ⟨fun i entry kind unstarted => ?_, fun started => ?_⟩
  · have starts : s.tags[t].startDeadline (s.now + 16 * s.mgmt.params.responseTimeout) = entry start
        ∧ (entry start).owner = some i.origin := by
      rw [unstarted]
      rcases kind with rfl | rfl <;> exact ⟨rfl, rfl⟩
    obtain ⟨starts, owner⟩ := starts
    rw [starts] at read write
    refine ⟨read, fun b d cell buffer sending own => ?_⟩
    rw [write buffer sending]
    have unchanged : (freed (ended (entry start)) b).checkQuiet c.mover = freed (ended (entry start)) b := by
      rcases own with own | not_drains
      · exact State.checkQuiet_of_not_quiet (State.not_quiet_of_owner (by rw [freed_tags, owner, own]))
      · exact State.checkQuiet_of_not_drains (by rw [State.mover_setMover_same]; exact not_drains)
    rw [unchanged, State.finish_between _ (freed_between _ b)]
  · have keeps (n : Time) : s.tags[t].startDeadline n = s.tags[t] := by
      rcases ht : s.tags[t] with _ | ⟨i, _ | e⟩ | ⟨i, _ | e⟩ | ⟨i, e⟩
      · rfl
      · exact absurd ht (started i).1
      · rfl
      · exact absurd ht (started i).2
      · rfl
      · rfl
    rw [keeps] at read write
    refine ⟨read, fun b d cell buffer sending => ?_⟩
    rw [write buffer sending]
    refine ⟨fun drains => ?_, fun not_drains => ?_⟩
    · have released := State.checkQuiet_released (freed (ended s.tags[t]) b) c.mover none (freed_between _ b).1 nofun
      rwa [State.atEnd_eq (freed_between _ b)] at released
    · rw [State.checkQuiet_of_not_drains (by rw [State.mover_setMover_same]; exact not_drains),
        State.finish_between _ (freed_between _ b)]

end Sys2Proof.Machine
end

section
/-! Inbound requests: admission to the Inbound Memory Queue, the Responder's buffer, refusals (R68–R71, R84, R85, R90,
R97), the MGMT cell in hand (R88), and the cells that wait for a place in the Reply Queue. -/

namespace Sys2Proof.Machine

variable {s : State} {c : RxCell} {rest : List RxCell} {w : WindowNo} {a : Addr} {b : BufNo}

/-! ### The Dispatcher's cell by its kind -/

theorem dispatch_write (hand : s.inbound.hand = none) (queue : s.inbound.queue = c :: rest)
    (kind : c.header.kind = 1) : dispatch s = s.dispatchWrite c := by
  have named : c.header.kind? = some .write := Header.kind?_of_code (k := .write) kind
  simp only [dispatch, hand, queue, named]

theorem dispatch_read (hand : s.inbound.hand = none) (queue : s.inbound.queue = c :: rest)
    (kind : c.header.kind = 2) : dispatch s = s.dispatchRead c := by
  have named : c.header.kind? = some .read := Header.kind?_of_code (k := .read) kind
  simp only [dispatch, hand, queue, named]

theorem dispatch_mgmt (hand : s.inbound.hand = none) (queue : s.inbound.queue = c :: rest)
    (kind : c.header.kind = 6) : dispatch s = s.dispatchMgmt c := by
  have named : c.header.kind? = some .mgmt := Header.kind?_of_code (k := .mgmt) kind
  simp only [dispatch, hand, queue, named]

theorem State.lookupCell_write {h : Header} (kind : h.kind = 1) :
    s.lookupCell h = s.lookup h.source true h.ringAddr h.length.toNat := by
  have named : h.kind? = some .write := Header.kind?_of_code (k := .write) kind
  rw [State.lookupCell, named]
  rfl

theorem State.lookupCell_read {h : Header} (kind : h.kind = 2) :
    s.lookupCell h = s.lookup h.source false h.ringAddr h.length.toNat := by
  have named : h.kind? = some .read := Header.kind?_of_code (k := .read) kind
  rw [State.lookupCell, named]
  rfl

/-! ### Admission (R71, R91, R92) -/

theorem State.tryAdmit_full {buffer : Option BufNo} (full : ¬s.imq.length < 4) :
    s.tryAdmit c buffer = s.wait (.memoryPlace buffer) := if_neg full

theorem State.tryAdmit_accepted {buffer : Option BufNo} (room : s.imq.length < 4)
    (accepted : s.lookupCell c.header = .accepted w a) :
    s.tryAdmit c buffer = (s.enqueueInbound c buffer w a).endHandling := by
  refine (if_pos room).trans ?_
  rw [accepted]

theorem State.tryAdmit_refused {buffer : Option BufNo} {r : NakReason} {k : Option WindowNo}
    (room : s.imq.length < 4) (refused : s.lookupCell c.header = .refused r k) :
    s.tryAdmit c buffer = State.refuse (match buffer with
      | some b => s.freeBuffer b
      | none => s) c.header r k := by
  refine (if_pos room).trans ?_
  rw [refused] <;> rfl

/-- An operation that joins a staged queue goes AT_PORT when it is the only one (R92). -/
theorem State.presentHead_append (staged : s.inboundStaged) (o : InboundOp) (ho : o.stage = .queued) :
    presentHead (s.imq ++ [o]) = s.imq ++ [{ o with stage := if s.imq = [] then .atPort else .queued }] := by
  obtain ⟨head, -⟩ := staged
  cases hq : s.imq with
  | nil => simp [presentHead, ho]
  | cons p l =>
    rw [hq] at head
    have hp : p.stage ≠ .queued := head p (List.mem_cons_self ..)
    have same : { o with stage := .queued } = o := by rw [← ho]
    simp only [List.cons_append, presentHead, reduceCtorEq, if_false, same]

/-- The state in which the cell in hand has joined the Inbound Memory Queue (R71, R92). -/
abbrev State.admitted (s : State) (c : RxCell) (rest : List RxCell) (w : WindowNo) (a : Addr)
    (k : InboundKind) : State :=
  { s with
    inbound := { queue := rest, hand := none }
    imq := s.imq ++
      [{ kind := k, window := w, cardAddr := a, length := c.header.length.toNat, requester := c.header.source
         origin := c.header.origin, tag := c.header.tag, ringAddr := c.header.ringAddr
         stage := if s.imq = [] then .atPort else .queued }]
    windows := s.windows.set w
      { s.windows[w] with
        inFlight := s.windows[w].inFlight + 1, accepted := s.windows[w].accepted + 1 } }

theorem State.enqueueInbound_admitted (staged : s.inboundStaged) (queue : s.inbound.queue = c :: rest)
    (buffer : Option BufNo) : (s.enqueueInbound c buffer w a).endHandling =
      s.admitted c rest w a (inboundOpOf c buffer w a).kind := by
  unfold State.enqueueInbound
  rw [State.presentHead_append staged _ rfl]
  simp only [State.endHandling, State.setWindow, queue, List.tail]
  rfl

theorem State.tryAdmit_admitted {buffer : Option BufNo} (staged : s.inboundStaged)
    (queue : s.inbound.queue = c :: rest) (room : s.imq.length < 4)
    (accepted : s.lookupCell c.header = .accepted w a) :
    s.tryAdmit c buffer = s.admitted c rest w a (inboundOpOf c buffer w a).kind := by
  rw [State.tryAdmit_accepted room accepted, State.enqueueInbound_admitted staged queue]

theorem admission_eq {buffer : Option BufNo} (hand : s.inbound.hand = some (.memoryPlace buffer))
    (queue : s.inbound.queue = c :: rest) : admission s = s.tryAdmit c buffer := by
  simp only [admission, hand, queue]

theorem takeResponderBuffer_eq (hand : s.inbound.hand = some .responderBuffer)
    (queue : s.inbound.queue = c :: rest) : takeResponderBuffer s = s.tryBuffer c := by
  simp only [takeResponderBuffer, hand, queue]

/-- A step that comes to a state with nothing left to take up. -/
theorem State.finish_to {t u : State} (h : u = t) (hb : t.between) :
    (Host.Outcome.next u.finish : Result) = .next t := by
  rw [h, State.finish_between t hb]

/-- Settles O17, by the attempt at an admission. -/
theorem requestAdmitted : Obligations.RequestAdmitted := by
  intro s c rest w a hb staged queue h admitted write
  have written : (inboundOpOf c none w a).kind = write := congrArg _ c.header.ackReq_eq
  refine ⟨fun kind accepted => ?_, fun b kind accepted hand room => ?_⟩
  · rw [← State.lookupCell_write kind] at accepted
    have admits (room : s.imq.length < 4) : s.tryAdmit c none = admitted write := by
      rw [State.tryAdmit_admitted staged queue room accepted, written]
    have dispatches (hand : s.inbound.hand = none) (good : c.good = true) : dispatch s = s.tryAdmit c none := by
      rw [dispatch_write hand queue kind, State.dispatchWrite, if_pos good, accepted]
    exact ⟨fun hand good room => State.finish_to ((dispatches hand good).trans (admits room)) hb,
      fun hand good full => State.finish_to ((dispatches hand good).trans (State.tryAdmit_full full)) hb,
      fun hand room => State.finish_to ((admission_eq hand queue).trans (admits room)) hb⟩
  · rw [← State.lookupCell_read kind] at accepted
    exact State.finish_to
      ((admission_eq hand queue).trans (State.tryAdmit_admitted staged queue room accepted)) hb

/-! ### The Responder's buffer (R97) -/

theorem State.tryBuffer_takes (takes : s.responderTakes b) :
    s.tryBuffer c = (s.setBuffer b (.held .responder .assigned)).tryAdmit c (some b) := by
  rw [State.tryBuffer, (s.responderBuffer_eq_some b).2 takes]

theorem State.tryBuffer_waits (none_free : ∀ b, ¬s.bufferFree b) : s.tryBuffer c = s.wait .responderBuffer := by
  rw [State.tryBuffer, s.responderBuffer_eq_none.2 none_free]

/-- Settles O18: the buffer is taken first, and then the admission is tried. -/
theorem readTakesBuffer : Obligations.ReadTakesBuffer := by
  intro s c rest w a hb staged queue h kind accepted
  rw [← State.lookupCell_read kind] at accepted
  have dispatches (hand : s.inbound.hand = none) : dispatch s = s.tryBuffer c := by
    rw [dispatch_read hand queue kind, State.dispatchRead, accepted]
  refine ⟨?_, fun none_free hand => ?_⟩
  · intro b takes next
    have comes : s.tryBuffer c = next := by
      rw [State.tryBuffer_takes takes]
      by_cases room : s.imq.length < 4
      · exact (State.tryAdmit_admitted (s := s.setBuffer b _) staged queue room accepted).trans (if_pos room).symm
      · exact (State.tryAdmit_full (s := s.setBuffer b _) room).trans (if_neg room).symm
    have between : next.between := by
      by_cases room : s.imq.length < 4
      · exact (show next = _ from if_pos room) ▸ hb
      · exact (show next = _ from if_neg room) ▸ hb
    exact ⟨fun hand => State.finish_to ((dispatches hand).trans comes) between,
      fun hand => State.finish_to ((takeResponderBuffer_eq hand queue).trans comes) between⟩
  · exact State.finish_to ((dispatches hand).trans (State.tryBuffer_waits none_free)) hb

/-! ### Refusals (R70, R78, R90) -/

/-- The Dispatcher's NAK goes to the Reply Queue, or waits for a place (R90). -/
theorem State.nak_eq (queue : s.inbound.queue = c :: rest) (h : Header) (r : NakReason) : s.nak h r =
    if s.replyQueue.length < 8 then
      { s with replyQueue := s.replyQueue ++ [s.nakCell h r], inbound := { queue := rest, hand := none } }
    else { s with inbound := { s.inbound with hand := some (.nakPlace r) } } := by
  rcases s.nak_cases h r with ⟨room, e⟩ | ⟨full, e⟩
  · rw [if_pos room, e, Inbound.taken, queue]
    rfl
  · rw [if_neg full, e]

theorem State.nak_raise (s : State) (e : Event) (h : Header) (r : NakReason) :
    (s.raise e).nak h r = (s.nak h r).raise e := by
  have same : (s.raise e).replyRoom = s.replyRoom := rfl
  cases room : s.replyRoom <;>
    simp only [State.nak, same, room, Bool.false_eq_true, if_true, if_false] <;> rfl

theorem State.between.nak (hb : s.between) (h : Header) (r : NakReason) : (s.nak h r).between := by
  obtain ⟨raised, fetcher⟩ := SameEnd.nak (s := s) h r
  rw [State.between, raised, fetcher]
  exact hb

theorem State.between.countRefused (hb : s.between) (k : Option WindowNo) : (s.countRefused k).between := by
  cases k <;> exact hb

/-- The step of a refusal takes INBOUND_REFUSED (R70). -/
theorem State.finish_refuse (hb : s.between) (h : Header) (r : NakReason) (k : Option WindowNo) :
    (s.refuse h r k).finish = ((s.countRefused k).nak h r).takeOccurrence .inboundRefused := by
  rw [State.refuse_eq, State.nak_raise, State.finish_raise ((hb.countRefused k).nak h r)]

/-- The Responder's buffer is taken and freed again within a step. -/
theorem State.setBuffer_freed (free : s.pool[b] = .free) (st : BufStage) :
    (s.setBuffer b (.held .responder st)).freeBuffer b = s := by
  rw [State.freeBuffer_responder (State.getBuffer_setBuffer ..)]
  have same : (s.pool.set b (.held .responder st)).set b .free = s.pool := by
    rw [Vector.set_set, ← free]
    exact Vector.set_getElem_self b.isLt
  simp only [State.setBuffer, same]

/-- Settles O19, by where the lookup refuses: at verdict, or at admission with or without a buffer. -/
theorem requestRefused : Obligations.RequestRefused := by
  intro s c rest reason matched hb queue h nak counted replied answered
  have refuses (t : State) (ht : t.between) (tq : t.inbound.queue = c :: rest)
      (same : (t.countRefused matched).nakCell c.header reason = nak reason) (tr : t.replyQueue = s.replyQueue)
      (ti : t.inbound = s.inbound) :
      (t.refuse c.header reason matched).finish = answered (t.countRefused matched) := by
    have counts : (t.countRefused matched).inbound = t.inbound
        ∧ (t.countRefused matched).replyQueue = t.replyQueue := by
      cases matched <;> exact ⟨rfl, rfl⟩
    simp only [answered, replied, State.finish_refuse ht, State.nak_eq (counts.1 ▸ tq), same, counts.1, counts.2,
      tr, ti]
  have refused : s.countRefused matched = counted := by cases matched <;> rfl
  have plainly : (s.refuse c.header reason matched).finish = answered counted := by
    rw [refuses s hb queue (by cases matched <;> rfl) rfl rfl, refused]
  refine ⟨fun kind hand lookup => ?_, fun kind bad hand => ?_, fun kind hand room lookup => ?_,
    fun b kind => ⟨fun hand room held lookup => ?_, fun hand takes => ⟨fun room lookup => ?_, fun full => ?_⟩⟩⟩
  · have dispatches : dispatch s = s.refuse c.header reason matched := by
      rcases kind with ⟨kind, good⟩ | kind
      · rw [decide_eq_true (show h.kind = 1 from kind), ← State.lookupCell_write kind] at lookup
        rw [dispatch_write hand queue kind, State.dispatchWrite, if_pos good, lookup]
      · rw [decide_eq_false (show h.kind ≠ 1 by rw [show h.kind = 2 from kind]; decide),
          ← State.lookupCell_read kind] at lookup
        rw [dispatch_read hand queue kind, State.dispatchRead, lookup]
    exact congrArg _ ((congrArg State.finish dispatches).trans plainly)
  · have dispatches : dispatch s = ((s.nak c.header .corrupt).raise .cellError).raise .inboundRefused := by
      rw [dispatch_write hand queue kind, State.dispatchWrite, if_neg (by rw [bad]; decide), State.nak_raise,
        State.nak_raise]
    have between := hb.nak c.header .corrupt
    obtain ⟨swap, taken⟩ := State.finish_answers (dispatch s) (some .cellError) (some .inboundRefused)
      (by rw [dispatches]; simp [between.1]) (by rintro e ⟨⟩; rfl)
    refine ⟨swap, taken.trans (congrArg _ ?_)⟩
    have ended : (dispatch s).atEnd = s.nak c.header .corrupt := by
      rw [dispatches]
      exact State.atEnd_eq between
    have placed : s.nak c.header .corrupt = replied .corrupt s := State.nak_eq queue _ _
    have free : (s.nak c.header .corrupt).free = s.free := by
      rcases s.nak_cases c.header .corrupt with ⟨-, e⟩ | ⟨-, e⟩ <;> rw [e]
    rw [ended, State.takes, free, placed]
  · rw [← State.lookupCell_write kind] at lookup
    exact congrArg _ ((congrArg State.finish
      ((admission_eq hand queue).trans (State.tryAdmit_refused room lookup))).trans plainly)
  · rw [← State.lookupCell_read kind] at lookup
    have freed : s.freeBuffer b = s.setBuffer b .free := State.freeBuffer_responder held
    refine congrArg _ ((congrArg State.finish
      ((admission_eq hand queue).trans (State.tryAdmit_refused room lookup))).trans ?_)
    dsimp only
    rw [freed, refuses (s.setBuffer b .free) hb queue (by cases matched <;> rfl) rfl rfl]
    cases matched <;> rfl
  · rw [← State.lookupCell_read kind] at lookup
    refine congrArg _ ((congrArg State.finish
      ((takeResponderBuffer_eq hand queue).trans (State.tryBuffer_takes takes))).trans ?_)
    rw [State.tryAdmit_refused (s := s.setBuffer b _) room lookup]
    dsimp only
    rw [State.setBuffer_freed takes.1.1, plainly]
  · exact State.finish_to ((takeResponderBuffer_eq hand queue).trans
      ((State.tryBuffer_takes takes).trans (State.tryAdmit_full (s := s.setBuffer b _) full))) hb

/-! ### The MGMT cell in hand, and the placing of replies -/

/-- Settles O21, by the payload check and the Management Unit's mode. -/
theorem managementCellInHand : Obligations.ManagementCellInHand := by
  intro s c rest hb hand queue kind gone
  have ended : s.endHandling = gone := by
    simp only [State.endHandling, queue, List.tail, gone]
  refine ⟨fun good ready => State.finish_to ?_ hb, fun good resetting => State.finish_to ?_ hb, fun bad => ?_⟩
  · rw [dispatch_mgmt hand queue kind, State.dispatchMgmt, if_pos good, ready]
    rfl
  · rw [dispatch_mgmt hand queue kind, State.dispatchMgmt, if_pos good, resetting, ← ended]
  · refine exec_dispatchCell_discarded hb queue ?_
    rw [dispatch_mgmt hand queue kind, State.dispatchMgmt, if_neg (by rw [bad]; decide)]

/-- Settles O25: with a place free each waiting cell is placed with a header of now. -/
theorem repliesPlaced : Obligations.RepliesPlaced := by
  intro s hb room own hops reply
  have hroom : s.replyRoom = true := State.replyRoom_iff.2 room
  refine ⟨fun c rest reason hand queue => congrArg Host.Outcome.next (?_ : placeNak s = _),
    fun r waiting => congrArg Host.Outcome.next (?_ : placeMgmtReply .lastTaken s = _),
    fun r waiting => congrArg Host.Outcome.next (?_ : placeMgmtReply .deferred s = _),
    fun w waiting => congrArg Host.Outcome.next (?_ : placeAttn s = _)⟩
  · simp only [placeNak, hand, queue, State.nak_eq queue, if_pos room]
    rfl
  · simp only [placeMgmtReply, hroom, waiting, if_true]
    rfl
  · simp only [placeMgmtReply, hroom, waiting, if_true]
    rfl
  · simp only [placeAttn, hroom, waiting, if_true]
    rfl

end Sys2Proof.Machine
end

section
/-! Responses in the Dispatcher's hand: good DATA (R54, R87), the end of a piece (R55, R56), stray responses (R57) and
untracked ones (R41). -/

namespace Sys2Proof.Machine

variable {s : State} {m : MoverId} {t : TagNo} {c : RxCell} {rest : List RxCell} {k : Kind} {i : TagInfo}

/-! ### Matching (R53) -/

/-- The entry's fields fit a response of kind `k` (R53). -/
def TagInfo.fitsResponse (i : TagInfo) (h : Header) (k : Kind) : Prop :=
  h.source = slotByte i.slot ∧ h.origin = moverByte i.origin ∧ i.type.answeredBy k = true

theorem Tag.matchesResponse_of_sentAs {x : Tag} {h : Header} (hx : x.sentAs i) :
    x.matchesResponse h k = true ↔ i.fitsResponse h k := by
  have sent : x.sent = true ∧ x.info = some i := by
    rcases hx with ⟨d, rfl⟩ | ⟨d, rfl⟩ | ⟨e, rfl⟩ <;> exact ⟨rfl, rfl⟩
  unfold Tag.matchesResponse TagInfo.fitsResponse
  simp [sent, and_assoc]

/-- The kinds that answer each request type (R53). -/
theorem RequestType.answeredBy_iff (ty : RequestType) (k : Kind) : ty.answeredBy k = true ↔
    (k = .data ∧ (∃ a, ty = .read a) ∨ k = .ack ∧ ty = .ackedWrite ∨ k = .nak) := by
  refine ⟨fun h => ?_, ?_⟩
  · cases ty with
    | read a =>
      cases k with
      | data => exact .inl ⟨rfl, a, rfl⟩
      | nak => exact .inr (.inr rfl)
      | ack | write | read | mgmt | reply | attn => exact absurd (show false = true from h) nofun
    | ackedWrite =>
      cases k with
      | ack => exact .inr (.inl ⟨rfl, rfl⟩)
      | nak => exact .inr (.inr rfl)
      | data | write | read | mgmt | reply | attn => exact absurd (show false = true from h) nofun
  · rintro (⟨rfl, a, rfl⟩ | ⟨rfl, rfl⟩ | rfl)
    · rfl
    · rfl
    · cases ty <;> rfl

theorem Kind.code_eq_iff (k : Kind) :
    (k.code = 3 ↔ k = .data) ∧ (k.code = 4 ↔ k = .ack) ∧ (k.code = 5 ↔ k = .nak) := by
  cases k <;> decide

/-- The kinds that answer a request type, by their codes (R53). -/
theorem TagInfo.fitsResponse_iff {h : Header} (code : h.kind = k.code) :
    i.fitsResponse h k ↔ h.source = slotByte i.slot ∧ h.origin = moverByte i.origin
      ∧ (h.kind = 3 ∧ (∃ a, i.type = .read a) ∨ h.kind = 4 ∧ i.type = .ackedWrite ∨ h.kind = 5) := by
  have answers : i.type.answeredBy k = true ↔
      (h.kind = 3 ∧ (∃ a, i.type = .read a) ∨ h.kind = 4 ∧ i.type = .ackedWrite ∨ h.kind = 5) := by
    obtain ⟨data, ack, nak⟩ := k.code_eq_iff
    rw [RequestType.answeredBy_iff, code, data, ack, nak]
  rw [TagInfo.fitsResponse, answers]

theorem exists_response {h : Header} (kind : h.kind = 3 ∨ h.kind = 4 ∨ h.kind = 5) :
    ∃ k : Kind, h.kind = k.code ∧ k.isResponse = true := by
  rcases kind with data | ack | nak
  · exact ⟨.data, data, rfl⟩
  · exact ⟨.ack, ack, rfl⟩
  · exact ⟨.nak, nak, rfl⟩

/-! ### The cell in hand has been handled -/

/-- The cell in hand has left the Receive Queue. -/
abbrev State.gone (s : State) (rest : List RxCell) : State := { s with inbound := { queue := rest, hand := none } }

theorem State.gone_mover (s : State) (rest : List RxCell) (m : MoverId) : (s.gone rest).mover m = s.mover m := by
  cases m <;> rfl

theorem State.endHandling_eq (queue : s.inbound.queue = c :: rest) : s.endHandling = s.gone rest := by
  rw [State.endHandling, queue]
  rfl

theorem State.endHandling_setMover (s : State) (m : MoverId) (v : Mover) :
    (s.setMover m v).endHandling = s.endHandling.setMover m v := by
  cases m <;> rfl

theorem State.endHandling_dropPiece (s : State) (m : MoverId) :
    (s.dropPiece m).endHandling = s.endHandling.dropPiece m := by
  rw [State.dropPiece, State.endHandling_setMover, State.dropPiece, State.endHandling_mover]

theorem State.endHandling_freeTag (s : State) (t : TagNo) : (s.freeTag t).endHandling = s.endHandling.freeTag t := by
  rcases s.dropTag_cases t .free with ⟨m, owner, h⟩ | ⟨owner, h⟩
  · rw [State.freeTag, h, State.endHandling_setMover, State.freeTag, State.dropTag, State.endHandling_tags, owner]
    simp only [State.endHandling_mover]
    rfl
  · rw [State.freeTag, h, State.freeTag_of_unowned (s := s.endHandling) owner]
    rfl

/-- The payload check has been examined, and the cell is gone. -/
theorem State.checkedData_gone (hb : s.between) (queue : s.inbound.queue = c :: rest) (k : Kind) :
    (s.checkedData k c).endHandling = (s.gone rest).raisedBy (badData k c) := by
  rw [State.endHandling_eq (s := s.checkedData k c) queue, State.checkedData, hb.1, List.nil_append]
  rfl

theorem badData_eq (code : c.header.kind = k.code) :
    badData k c = if c.header.kind = 3 ∧ c.good = false then some .cellError else none := by
  have named : k = .data ↔ c.header.kind = 3 := by rw [code, k.code_eq_iff.1]
  simp only [badData, named]

theorem badData_mover (k : Kind) (c : RxCell) : ∀ a ∈ badData k c, a.mover? = none :=
  fun _ ha => badData_of_mem ha ▸ rfl

/-- A tag goes to another entry and its piece is given up, with at most one occurrence on its way. -/
theorem State.given_raisedBy {u : State} {x : Tag} (owner : u.tags[t].owner = some m) (e : Option Event) :
    ((u.raisedBy e).dropTag t x).dropPiece m =
      State.raisedBy ((u.setTag t x).setMover m
        { u.mover m with
          tagsHeld := (u.mover m).tagsHeld - 1, piecesInFlight := (u.mover m).piecesInFlight - 1 }) e := by
  rw [State.dropTag_dropPiece (s := u.raisedBy e) owner, State.raisedBy_mover]
  exact (u.setTag t x).setMover_raisedBy m _ e

/-! ### What the Tag Table makes of a response -/

theorem State.tagResponse_matched (ht : c.header.tag = byteOf t.val) (hx : s.tags[t].sentAs i)
    (fits : i.fitsResponse c.header k) : s.tagResponse k c = match s.tags[t] with
      | .waiting j _ => (s.checkedData k c).waitingResponse t j k c
      | .abandoned j _ =>
        ((((s.checkedData k c).freeTag t).dropPiece j.origin).endHandling).checkQuiet j.origin
      | .quarantined _ _ => (((s.checkedData k c).freeTag t).raise .strayResponse).endHandling
      | .free => s.checkedData k c := by
  have matched := (Tag.matchesResponse_of_sentAs hx).2 fits
  simp only [State.tagResponse, State.checkedData_eq, ht, tagOf_byteOf, State.checkedData_tags, matched,
    if_true] <;> rfl

theorem State.tagResponse_unmatched
    (none_fits : ∀ (t : TagNo) (i : TagInfo), c.header.tag = byteOf t.val → s.tags[t].sentAs i →
      ¬i.fitsResponse c.header k) :
    s.tagResponse k c = ((s.checkedData k c).raise .strayResponse).endHandling := by
  simp only [State.tagResponse, State.checkedData_eq]
  split
  · rfl
  · next t ht =>
    simp only [State.checkedData_tags]
    refine if_neg fun matched => ?_
    have sent : s.tags[t].sent = true := by
      simp only [Tag.matchesResponse, Bool.and_eq_true] at matched
      exact matched.1
    obtain ⟨i, hi⟩ := Tag.sentAs_of_sent sent
    exact none_fits t i ((tagOf_eq_some _ _).1 ht) hi ((Tag.matchesResponse_of_sentAs hi).1 matched)

theorem exec_dispatchCell_response (hand : s.inbound.hand = none) (queue : s.inbound.queue = c :: rest)
    (code : c.header.kind = k.code) (response : k.isResponse = true) :
    exec .dispatchCell s = .next (s.dispatchResponse k c).finish := by
  rw [← dispatch_response hand queue (Header.kind?_of_code code) response]
  rfl

/-- The step of a stray response (R57). -/
theorem State.stray_answers (hb : s.between) (queue : s.inbound.queue = c :: rest) :
    (s.gone rest).answers (badData k c) (some .strayResponse)
      (.next (((s.checkedData k c).raise .strayResponse).endHandling).finish) := by
  have stray : ((s.checkedData k c).raise .strayResponse).endHandling
      = ((s.gone rest).raisedBy (badData k c)).raise .strayResponse := by
    rw [← State.checkedData_gone hb queue]
    rfl
  have answered := State.finish_answers (((s.gone rest).raisedBy (badData k c)).raise .strayResponse) (badData k c)
    (some .strayResponse) rfl (badData_mover k c)
  rwa [show (((s.gone rest).raisedBy (badData k c)).raise .strayResponse).atEnd = s.gone rest from
    State.atEnd_eq (s := s.gone rest) hb, ← stray] at answered

/-! ### Good DATA (R54, R87) -/

theorem badData_good (good : c.good = true) (k : Kind) : badData k c = none :=
  if_neg fun ⟨_, bad⟩ => by rw [good] at bad; cases bad

theorem State.checkedData_good (good : c.good = true) (k : Kind) : s.checkedData k c = s := by
  rw [State.checkedData, badData_good good, Option.toList_none, List.append_nil]

/-- A tag is freed: its owner counts one less. -/
theorem State.freeTag_owned (owner : s.tags[t].owner = some m) : s.freeTag t = (s.setTag t .free).setMover m
    { s.mover m with tagsHeld := (s.mover m).tagsHeld - 1 } := by
  rw [State.freeTag, State.dropTag, owner]

/-- Settles O23: the tag is freed, and the write takes a place of its owner's memory queue, or waits for one. -/
theorem goodDataWritten : Obligations.GoodDataWritten := by
  intro s c rest hb queue h op
  refine ⟨?_, fun m a r hand room => ?_⟩
  · intro t i a d hand kind good waiting type tag source origin length v freed
    have owner : s.tags[t].owner = some i.origin := by rw [waiting]; rfl
    have fits : i.fitsResponse h .data := ⟨source, origin, by rw [type]; rfl⟩
    have taken : s.tagResponse .data c = (s.freeTag t).takeData i.origin a i.ringAddr c := by
      rw [State.tagResponse_matched tag (.inl ⟨d, waiting⟩) fits, waiting, State.checkedData_good good]
      simp only [State.waitingResponse, type, ne_eq]
      rw [if_neg (not_not.2 length), if_pos good]
    have step : exec .dispatchCell s = .next (State.takeData ((freed).setMover i.origin
        { v with tagsHeld := v.tagsHeld - 1 }) i.origin a i.ringAddr c).finish := by
      rw [exec_dispatchCell_tagged hand queue (Header.kind?_of_code (k := .data) kind) rfl tag, taken,
        State.freeTag_owned owner]
      rfl
    rw [step]
    refine ⟨fun room => State.finish_to ?_ (State.between.setMover (s := freed.gone rest) hb _ _),
      fun full => State.finish_to ?_ (State.between.setMover (s := freed.wait _) hb _ _)⟩
    · have hroom : (((freed).setMover i.origin { v with tagsHeld := v.tagsHeld - 1 }).mover i.origin).queueRoom
          = true := by
        rw [State.mover_setMover_same]
        exact Mover.queueRoom_iff.2 room
      rw [State.takeData, if_pos hroom, State.placeData, State.mover_setMover_same, State.setMover_setMover,
        State.endHandling_setMover, State.endHandling_eq (s := freed) queue]
    · have hroom : (((freed).setMover i.origin { v with tagsHeld := v.tagsHeld - 1 }).mover i.origin).queueRoom
          ≠ true := by
        rw [State.mover_setMover_same, Ne, Mover.queueRoom_iff]
        exact full
      rw [State.takeData, if_neg hroom]
      dsimp only
      rw [State.mover_setMover_same, State.setMover_setMover]
      cases i.origin <;> rfl
  · have hroom : (s.mover m).queueRoom = true := Mover.queueRoom_iff.2 room
    refine congrArg Host.Outcome.next (?_ : placePendingWrite s = _)
    simp only [placePendingWrite, hand, queue, hroom, if_true]
    rw [State.placeData, State.mover_setMover_same, State.setMover_setMover, State.endHandling_setMover,
      State.endHandling_eq queue]

/-! ### What becomes of a mover whose tag is freed -/

/-- The settling of a piece of a mover that finishes pieces leaves no test for quiet to make. -/
theorem State.settlePiece_checkQuiet {e : Element} {x : Xfer} {n : Nat} (current : (s.mover m).current = .element e)
    (xfer : e.xfer = some x) (finishing : (s.mover m).finishing) :
    (s.settlePiece m n).checkQuiet m = s.settlePiece m n := by
  refine State.checkQuiet_of_not_drains ?_
  have state : ((s.pieceSettled m n).mover m).state = (s.mover m).state := by rw [State.pieceSettled_mover]
  by_cases all : (s.mover m).settled + n = x.byteCount
  · rw [State.settlePiece_eq current xfer, if_pos all]
    rcases finishing with hs | hs <;> simp only [hs]
    · exact State.completeElement_not_drains _ _ _
    · exact State.completeStopped_not_drains e (state.trans hs)
  · rw [State.settlePiece_unfinished current xfer (.inl all)]
    refine Mover.not_drains_of_finishing ?_
    rwa [Mover.finishing, state]

/-- The test for quiet keeps a mover's fault record and its count of tags. -/
theorem State.checkQuiet_mover_keeps (s : State) (m : MoverId) :
    ((s.checkQuiet m).mover m).fault = (s.mover m).fault
      ∧ ((s.checkQuiet m).mover m).tagsHeld = (s.mover m).tagsHeld := by
  have reported (u : State) (what : DeferTarget) : (u.reportCompletion what).mover m = u.mover m := by
    rcases u.reportCompletion_cases what with ⟨-, h⟩ | ⟨-, _, _, h⟩ <;> rw [h]
    cases m <;> rfl
  unfold State.checkQuiet
  split
  · split
    · simp [State.haltMover, Mover.rest]
    · rw [reported, State.mover_setMover_same]
      exact ⟨rfl, rfl⟩
    · exact ⟨rfl, rfl⟩
  · exact ⟨rfl, rfl⟩

/-- The end of a step in which movers alone have acted. -/
theorem State.finish_actsOnMovers {u : State} {e : Option Event} (hb : s.between) (acts : MoverActs (s.raisedBy e) u) :
    s.actsOnMovers u.finish ∧ u.finish.tags = u.tags ∧ ∀ m, u.finish.mover m = u.mover m := by
  obtain ⟨⟨_, _, _, _, _, _, _, _, _, _, _, rfl⟩, -⟩ := acts
  obtain ⟨_, _, ended⟩ := State.finish_frame _
  rw [ended]
  refine ⟨?_, rfl, fun m => by cases m <;> rfl⟩
  simp only [State.actsOnMovers, State.raisedBy, hb.1]

/-- An ABANDONED tag goes to another entry (R58, R60): the owner has no fault by it. -/
theorem State.abandoned_taken {u : State} (hb : u.between) (d : Option Event) (m : MoverId) (t : TagNo) (x : Tag)
    (he : ∀ a ∈ d, a.mover? = none) (owner : u.tags[t].owner = some m) :
    let given : State := (u.setTag t x).setMover m
      { u.mover m with
        tagsHeld := (u.mover m).tagsHeld - 1, piecesInFlight := (u.mover m).piecesInFlight - 1 }
    let out : Result := .next ((given.raisedBy d).checkQuiet m).finish
    (∃ w, out = .next w ∧ u.actsOnMovers w ∧ w.tags[t] = x ∧ (w.mover m).fault = (u.mover m).fault
      ∧ (w.mover m).tagsHeld = (u.mover m).tagsHeld - 1)
    ∧ given.released m d out := by
  intro given out
  have between : given.between := State.between.setMover (s := u.setTag t x) hb m _
  have acts : MoverActs (u.raisedBy d) ((given.raisedBy d).checkQuiet m) := by
    have given_acts : MoverActs (u.raisedBy d) (given.raisedBy d) := by
      rw [← State.given_raisedBy owner d]
      exact (MoverActs.of_givesUp (.dropTag _ t x)).trans (.of_givesUp (.dropPiece _ m))
    exact given_acts.trans (.checkQuiet _ m)
  obtain ⟨onMovers, tags, mover⟩ := State.finish_actsOnMovers hb acts
  obtain ⟨fault, held⟩ := (given.raisedBy d).checkQuiet_mover_keeps m
  have given_mover : (given.raisedBy d).mover m = { u.mover m with
      tagsHeld := (u.mover m).tagsHeld - 1, piecesInFlight := (u.mover m).piecesInFlight - 1 } := by
    rw [State.raisedBy_mover, State.mover_setMover_same]
  refine ⟨⟨_, rfl, onMovers, ?_, ?_, ?_⟩, State.raisedBy_checkQuiet_released between he⟩
  · rw [tags, State.checkQuiet_tags]
    rw [show (given.raisedBy d).tags = (u.setTag t x).tags from State.setMover_tags ..]
    exact State.getTag_setTag ..
  · rw [mover, fault, given_mover]
  · rw [mover, held, given_mover]

end Sys2Proof.Machine
end

section
/-! Responses in the Dispatcher's hand: those that match a tag, stray ones and untracked ones (R53–R57, R41, R86). -/

namespace Sys2Proof.Machine

variable {s : State} {m : MoverId} {t : TagNo} {c : RxCell} {rest : List RxCell} {k : Kind} {i : TagInfo}

/-- The tag is free and the owner counts it no more, the cell being gone. -/
abbrev State.freedTag (s : State) (rest : List RxCell) (t : TagNo) (m : MoverId) : State :=
  ((s.gone rest).setTag t .free).setMover m { s.mover m with tagsHeld := (s.mover m).tagsHeld - 1 }

/-- The tag is free, and the owner counts neither it nor its piece, the cell being gone. -/
abbrev State.givenTag (s : State) (rest : List RxCell) (t : TagNo) (m : MoverId) : State :=
  ((s.gone rest).setTag t .free).setMover m
    { s.mover m with tagsHeld := (s.mover m).tagsHeld - 1, piecesInFlight := (s.mover m).piecesInFlight - 1 }

theorem State.between.givenTag (hb : s.between) (rest : List RxCell) (t : TagNo) (m : MoverId) :
    (s.givenTag rest t m).between := State.between.setMover (s := (s.gone rest).setTag t .free) hb m _

theorem State.givenTag_mover (s : State) (rest : List RxCell) (t : TagNo) (m : MoverId) :
    (s.givenTag rest t m).mover m =
      { s.mover m with tagsHeld := (s.mover m).tagsHeld - 1, piecesInFlight := (s.mover m).piecesInFlight - 1 } :=
  State.mover_setMover_same ..

theorem State.checkedData_givenTag (hb : s.between) (queue : s.inbound.queue = c :: rest)
    (owner : s.tags[t].owner = some m) (k : Kind) :
    (((s.checkedData k c).freeTag t).endHandling).dropPiece m = (s.givenTag rest t m).raisedBy (badData k c) := by
  rw [State.endHandling_freeTag, State.checkedData_gone hb queue, State.freeTag, State.given_raisedBy (u := s.gone rest) owner]
  rfl

/-- The step of a response that matches a WAITING tag. -/
theorem exec_dispatchCell_waiting {d : Time} (hand : s.inbound.hand = none) (queue : s.inbound.queue = c :: rest)
    (code : c.header.kind = k.code) (response : k.isResponse = true) (tag : c.header.tag = byteOf t.val)
    (waiting : s.tags[t] = .waiting i (some d)) (fits : i.fitsResponse c.header k) :
    exec .dispatchCell s = .next ((s.checkedData k c).waitingResponse t i k c).finish := by
  rw [exec_dispatchCell_tagged hand queue (Header.kind?_of_code code) response tag,
    State.tagResponse_matched tag (.inl ⟨d, waiting⟩) fits, waiting]

/-- A response that is its sender's fault (R55): NAK, or DATA that does not fit. -/
theorem State.waitingResponse_fault {d : Option Time} {n : Option Byte} {f : FaultKind} (hb : s.between)
    (queue : s.inbound.queue = c :: rest) (waiting : s.tags[t] = .waiting i d)
    (faulty : (s.checkedData k c).waitingResponse t i k c =
      ((((s.checkedData k c).freeTag t).endHandling).dropPiece i.origin).takeFault i.origin (tagFault f t i n))
    (finishing : (s.mover i.origin).finishing) (none_yet : (s.mover i.origin).fault = none) :
    (s.givenTag rest t i.origin).faults i.origin (tagFault f t i n) (badData k c)
      (.next ((s.checkedData k c).waitingResponse t i k c).finish) := by
  rw [faulty, State.checkedData_givenTag hb queue (by rw [waiting]; rfl)]
  exact State.raisedBy_takeFault_faults (hb.givenTag rest t i.origin) (badData_mover k c)
    (by rwa [State.givenTag_mover]) (by rwa [State.givenTag_mover]) rfl

/-- An ACK settles its piece (R29, R54). -/
theorem State.waitingResponse_ack {d : Option Time} (queue : s.inbound.queue = c :: rest)
    (waiting : s.tags[t] = .waiting i d) :
    (s.checkedData .ack c).waitingResponse t i .ack c =
      (s.freedTag rest t i.origin).settlePiece i.origin i.length := by
  have checked : s.checkedData .ack c = s := by
    rw [State.checkedData, badData, if_neg (fun h => nomatch h.1), Option.toList_none, List.append_nil]
  have freed : (s.freeTag t).endHandling = s.freedTag rest t i.origin := by
    rw [State.freeTag_owned (m := i.origin) (by rw [waiting]; rfl), State.endHandling_setMover,
      State.endHandling_eq (s := s.setTag t .free) queue]
    rfl
  rw [checked, ← freed]
  rfl

/-- A response to an ABANDONED tag frees it, and its draining owner may be quiet (R58). -/
theorem exec_dispatchCell_abandoned {d : Time} (hb : s.between) (hand : s.inbound.hand = none)
    (queue : s.inbound.queue = c :: rest) (code : c.header.kind = k.code) (response : k.isResponse = true)
    (tag : c.header.tag = byteOf t.val) (abandoned : s.tags[t] = .abandoned i (some d))
    (fits : i.fitsResponse c.header k) :
    exec .dispatchCell s =
      .next (((s.givenTag rest t i.origin).raisedBy (badData k c)).checkQuiet i.origin).finish := by
  rw [exec_dispatchCell_tagged hand queue (Header.kind?_of_code code) response tag,
    State.tagResponse_matched tag (.inr (.inl ⟨d, abandoned⟩)) fits, abandoned]
  show Host.Outcome.next
    (State.checkQuiet ((((s.checkedData k c).freeTag t).dropPiece i.origin).endHandling) i.origin).finish = _
  rw [State.endHandling_dropPiece, State.checkedData_givenTag hb queue (by rw [abandoned]; rfl)]

/-! ### Stray and untracked responses (R41, R57) -/

/-- A response that matches no entry of the Tag Table is stray. -/
theorem exec_dispatchCell_stray (hb : s.between) (hand : s.inbound.hand = none)
    (queue : s.inbound.queue = c :: rest) (code : c.header.kind = k.code) (response : k.isResponse = true)
    (stray : s.dispatchResponse k c = ((s.checkedData k c).raise .strayResponse).endHandling) :
    (s.gone rest).answers (badData k c) (some .strayResponse) (exec .dispatchCell s) := by
  rw [exec_dispatchCell_response hand queue code response, stray]
  exact State.stray_answers hb queue

theorem State.untrackedResponse_stray (unnamed : k ≠ .nak ∨ 2 ≤ c.header.origin.toNat) :
    s.untrackedResponse k c = ((s.checkedData k c).raise .strayResponse).endHandling := by
  unfold State.untrackedResponse
  simp only [State.checkedData_eq]
  split
  · next m named =>
    rcases unnamed with h | h
    · exact absurd rfl h
    · rw [moverOf_none h] at named
      cases named
  · rfl

/-- What the mover that an untracked NAK names makes of it (R41). -/
theorem exec_dispatchCell_untracked (hb : s.between) (hand : s.inbound.hand = none)
    (queue : s.inbound.queue = c :: rest) (kind : c.header.kind = 5) (tag : c.header.tag = 0xFF)
    (origin : c.header.origin = moverByte m) :
    exec .dispatchCell s = .next (State.finish
      (if (s.mover m).state.carrying || (s.mover m).state.draining then
        (s.gone rest).takeFault m
          (untrackedFault (s.mover m) .remoteRefused c.header.ringAddr (some c.header.seq))
      else (s.gone rest).raise .strayResponse)) := by
  have checked : badData .nak c = none := if_neg fun h => nomatch h.1
  have gone : (s.checkedData .nak c).endHandling = s.gone rest := by
    rw [State.checkedData_gone hb queue, checked, State.raisedBy_none (s := s.gone rest) hb]
  have named : moverOf c.header.origin = some m := origin ▸ moverOf_moverByte m
  rw [exec_dispatchCell_response (k := .nak) hand queue kind rfl, State.dispatchResponse, if_pos tag]
  simp only [State.untrackedResponse, State.checkedData_eq, named, gone, State.gone_mover]

/-- Settles O24: what matches a WAITING or an ABANDONED tag, what is stray, and what a mover makes of an untracked
NAK. -/
theorem responsesTaken : Obligations.ResponsesTaken := by
  intro s c rest hb hand queue h out gone damage stray fits
  have fitting {i : TagInfo} {k : Kind} (code : h.kind = k.code) : i.fitsResponse h k ↔ fits i :=
    TagInfo.fitsResponse_iff code
  have raises {k : Kind} (code : h.kind = k.code) : badData k c = damage := badData_eq code
  have strays {k : Kind} (code : h.kind = k.code) (response : k.isResponse = true)
      (unmatched : s.dispatchResponse k c = ((s.checkedData k c).raise .strayResponse).endHandling) : stray := by
    have answered := exec_dispatchCell_stray hb hand queue code response unmatched
    rwa [raises code] at answered
  refine ⟨fun t i d tag fit => ?matched, fun response => ?strays, fun m nak untracked origin => ?untracked⟩
  case matched =>
    intro v freed fault settled given
    obtain ⟨k, code, answers⟩ := exists_kind_answering fit.2.2
    have response : k.isResponse = true := RequestType.isResponse_of_answeredBy answers
    have kfits {k : Kind} (code : h.kind = k.code) : i.fitsResponse h k := (fitting code).2 fit
    refine ⟨fun e x waiting finishing ack current xfer => ?_, fun waiting finishing none_yet => ?_,
      fun abandoned => ?_⟩
    · have step : out = .next (State.settlePiece (s.freedTag rest t i.origin) i.origin i.length).finish := by
        rw [← State.waitingResponse_ack queue waiting]
        exact exec_dispatchCell_waiting (k := .ack) hand queue ack rfl tag waiting (kfits (k := .ack) ack)
      have between : (s.freedTag rest t i.origin).between :=
        State.between.setMover (s := (s.gone rest).setTag t .free) hb _ _
      have mover : (s.freedTag rest t i.origin).mover i.origin = { v with tagsHeld := v.tagsHeld - 1 } :=
        State.mover_setMover_same ..
      have settles : (s.freedTag rest t i.origin).pieceSettled i.origin i.length = settled := by
        rw [State.pieceSettled, mover, State.setMover_setMover]
        rfl
      have current' : ((s.freedTag rest t i.origin).mover i.origin).current = .element e := by rw [mover]; exact current
      have finishing' : ((s.freedTag rest t i.origin).mover i.origin).finishing := by rw [mover]; exact finishing
      obtain ⟨left, all, -⟩ := State.settlePiece_finish (n := i.length) between current' xfer
      rw [State.settlePiece_checkQuiet current' xfer finishing', settles, mover] at left all
      exact ⟨fun n => step.trans (congrArg _ (left finishing n)), fun n => step ▸ all finishing n⟩
    · have faulty {k : Kind} {f : FaultKind} {n : Option Byte} (code : h.kind = k.code) (response : k.isResponse = true)
          (faulty : (s.checkedData k c).waitingResponse t i k c =
            ((((s.checkedData k c).freeTag t).endHandling).dropPiece i.origin).takeFault i.origin
              (tagFault f t i n)) : given.faults i.origin (fault f n) (badData k c) out := by
        rw [show out = _ from exec_dispatchCell_waiting hand queue code response tag waiting (kfits code)]
        exact State.waitingResponse_fault hb queue waiting faulty finishing none_yet
      have reads (data : h.kind = 3) : ∃ a, i.type = .read a := by
        rcases fit.2.2 with ⟨-, type⟩ | ⟨ack, -⟩ | nak
        · exact type
        · rw [data] at ack
          cases ack
        · rw [data] at nak
          cases nak
      refine ⟨fun nak => ?_, fun data length => ?_, fun data length bad => ?_⟩
      · have faulted := faulty (k := .nak) (f := .remoteRefused) (n := some h.seq) nak rfl rfl
        rwa [show badData .nak c = none from if_neg fun h => nomatch h.1] at faulted
      · obtain ⟨a, type⟩ := reads data
        have faulted := faulty (k := .data) (f := .dataLength) (n := none) data rfl (by
          simp only [State.waitingResponse, type]
          rw [if_pos length])
        rwa [raises (k := .data) data] at faulted
      · obtain ⟨a, type⟩ := reads data
        have faulted := faulty (k := .data) (f := .dataCorrupt) (n := none) data rfl (by
          simp only [State.waitingResponse, type]
          rw [if_neg (not_not.2 length), if_neg (by rw [bad]; decide)])
        rwa [raises (k := .data) data] at faulted
    · rw [show out = _ from exec_dispatchCell_abandoned hb hand queue code response tag abandoned (kfits code),
        raises code]
      exact State.abandoned_taken (u := s.gone rest) hb damage i.origin t .free
        (by rw [← raises code]; exact badData_mover k c) (by rw [abandoned]; rfl)
  case strays =>
    obtain ⟨k, code, isResponse⟩ := exists_response response
    refine ⟨fun t tag unfit => strays code isResponse ?_, fun low high => strays code isResponse ?_,
      fun untracked unnamed => strays code isResponse ?_⟩
    · rw [State.dispatchResponse_tagged tag]
      refine State.tagResponse_unmatched fun u i tag' sent fit => ?_
      have same : u = t := Option.some.inj (by rw [← tagOf_byteOf u, ← tag', tag, tagOf_byteOf])
      exact unfit i (same ▸ sent) ((fitting code).1 fit)
    · rw [State.dispatchResponse, if_neg high]
      refine State.tagResponse_unmatched fun u i tag sent fit => ?_
      rw [tag, byteOf, BitVec.toNat_ofNat] at low
      have := u.isLt
      omega
    · rw [State.dispatchResponse, if_pos untracked]
      refine State.untrackedResponse_stray (unnamed.imp_left fun kind => ?_)
      rintro rfl
      exact kind code
  case untracked =>
    have step := exec_dispatchCell_untracked hb hand queue nak untracked origin
    intro v fault
    have told (active : (s.mover m).state.carrying || (s.mover m).state.draining) {a : Addr} (current : v.currentAt a) :
        out = .next ((s.gone rest).takeFault m (fault a)).finish := by
      rw [show out = _ from step, if_pos active, untrackedFault, Mover.currentAddr_of current]
    refine ⟨fun e finishing current none_yet => ?_, fun a drains current => ?_, fun state => ?_⟩
    · have taken := State.raisedBy_takeFault_faults (s := s.gone rest) (e := none) (m := m) (f := fault e.addr) hb
        nofun finishing none_yet rfl
      rw [State.raisedBy_none (s := s.gone rest) hb] at taken
      rw [told (by rw [(MoverState.carrying_iff _).2 finishing]; rfl) (.inr ⟨e, current, rfl⟩)]
      exact taken
    · rw [told (by rw [(MoverState.draining_iff _).2 drains, Bool.or_true]) current,
        State.takeFault_drains (s := s.gone rest) drains rfl]
      exact congrArg _ (State.finish_between _ (State.between.setMover (s := s.gone rest) hb m _))
    · rw [show out = _ from step, if_neg, State.finish_raise (s := s.gone rest) hb]
      rw [Bool.or_eq_true, MoverState.carrying_iff, MoverState.draining_iff, Mover.finishing, Mover.drains]
      rintro ((h | h) | (h | h)) <;> rw [show v.state = _ from h] at state <;> simp at state

end Sys2Proof.Machine
end

section
/-! The head of the Inbound Memory Queue replies and leaves (R72, R77, R93–R96), and the bus answers an inbound
operation (R126). -/

namespace Sys2Proof.Machine

variable {s : State} {o : InboundOp} {rest : List InboundOp} {ok : Bool} {b : BufNo} {d : List Byte}

/-! ### The head leaves -/

/-- What the leaving of the head comes to, before the end of the step (R72, R77, R92). -/
theorem State.leaveInboundQueue_leaves (queue : s.imq = o :: rest) :
    s.headLeaves o rest none (.next s.leaveInboundQueue) := by
  simp only [State.leaveInboundQueue, queue, State.leaveWindow]
  refine ⟨?_, ?_⟩
  · intro stays
    refine congrArg _ (if_neg ?_)
    rintro ⟨draining, zero⟩
    rcases stays with not_draining | more
    · exact not_draining draining
    · change 1 < s.windows[o.window].inFlight at more
      omega
  · intro g draining last deferred target
    refine congrArg _ ?_
    have zero : s.windows[o.window].inFlight - 1 = 0 := Nat.sub_eq_zero_of_le last
    have deferred : s.mgmt.deferred = some g := deferred
    rw [if_pos ⟨draining, zero⟩]
    simp only [State.reportCompletion, State.setWindow_mgmt, deferred, target, if_true]
    rfl

/-- What the leaving of the head comes to at the end of a step with an occurrence beside. -/
theorem State.raisedBy_leaves (hb : s.between) (queue : s.imq = o :: rest) (e : Option Event) :
    s.headLeaves o rest e (.next ((s.raisedBy e).leaveInboundQueue).finish) := by
  have left := State.leaveInboundQueue_headLeaves (s.raisedBy e) o rest e queue rfl
  rwa [show (s.raisedBy e).atEnd = s from State.atEnd_eq hb] at left

theorem State.finish_leaves (hb : s.between) (queue : s.imq = o :: rest) :
    s.headLeaves o rest none (.next (s.leaveInboundQueue).finish) := by
  have left := State.raisedBy_leaves hb queue none
  rwa [State.raisedBy_none hb] at left

/-! ### The head replies -/

theorem State.inboundReplyStep_full (queue : s.imq = o :: rest) (stage : o.stage = .replying ok)
    (full : ¬s.replyQueue.length < 8) : s.inboundReplyStep = s := by
  have room : s.replyRoom ≠ true := fun h => full (State.replyRoom_iff.1 h)
  simp only [State.inboundReplyStep, queue, stage]
  rw [if_neg room]

theorem State.inboundReplyStep_room (queue : s.imq = o :: rest) (stage : o.stage = .replying ok)
    (room : s.replyQueue.length < 8) : s.inboundReplyStep =
      State.leaveInboundQueue (match (s.inboundReply o ok).payload with
        | .buffer b => (s.placeReply (s.inboundReply o ok)).stageBuffer b
          (.queued (s.pool[b].data) (s.inboundReply o ok).header)
        | _ => s.placeReply (s.inboundReply o ok)) := by
  have hroom : s.replyRoom = true := State.replyRoom_iff.2 room
  simp only [State.inboundReplyStep, queue, stage, hroom, if_true] <;> rfl

/-- An ACK or a NAK MEMORY is placed. -/
theorem State.inboundReplyStep_plain (queue : s.imq = o :: rest) (stage : o.stage = .replying ok)
    (room : s.replyQueue.length < 8) (plain : (s.inboundReply o ok).payload = .none) :
    s.inboundReplyStep = (s.placeReply (s.inboundReply o ok)).leaveInboundQueue := by
  rw [State.inboundReplyStep_room queue stage room, plain]

/-- A DATA is placed, and its buffer goes from FILLED to QUEUED (R115). -/
theorem State.inboundReplyStep_data (queue : s.imq = o :: rest) (stage : o.stage = .replying true)
    (room : s.replyQueue.length < 8) (kind : o.kind = .read b) (filled : s.pool[b] = .held .responder (.filled d)) :
    s.inboundReplyStep = ((s.placeReply (s.inboundReply o true)).setBuffer b
      (.held .responder (.queued d (s.inboundReply o true).header))).leaveInboundQueue := by
  have payload : (s.inboundReply o true).payload = .buffer b := by simp only [State.inboundReply, kind]
  rw [State.inboundReplyStep_room queue stage room, payload]
  simp only [State.stageBuffer, State.placeReply_pool, filled, Buffer.data]

/-- The three cells that answer a request (R93–R95). -/
theorem State.inboundReply_ack {bytes : List Byte} {ack : Bool} (kind : o.kind = .write bytes ack) :
    s.inboundReply o true =
      { producer := .inboundQueue, header := s.answerHeader .ack o.requester o.origin o.tag o.ringAddr 0 0
        payload := .none, isReset := false } := by
  simp only [State.inboundReply, kind]

theorem State.inboundReply_data (kind : o.kind = .read b) :
    s.inboundReply o true =
      { producer := .inboundQueue
        header := s.answerHeader .data o.requester o.origin o.tag o.ringAddr (byteOf o.length) 0
        payload := .buffer b, isReset := false } := by
  simp only [State.inboundReply, kind]

theorem State.inboundReply_nak :
    s.inboundReply o false =
      { producer := .inboundQueue
        header := s.answerHeader .nak o.requester o.origin o.tag o.ringAddr 0 NakReason.memory.code
        payload := .none, isReset := false } := rfl

/-- Settles O26, by the cell that the head places. -/
theorem inboundReplyPlaced : Obligations.InboundReplyPlaced := by
  intro s o rest ok queue stage out cell placed
  refine ⟨fun room => ⟨fun bytes ack done kind => ?_, fun failed => ?_, fun b d done kind filled => ?_⟩,
    fun full => congrArg Host.Outcome.next (State.inboundReplyStep_full queue stage full)⟩
  · subst done
    have reply := State.inboundReply_ack (s := s) kind
    have step := State.inboundReplyStep_plain queue stage room (by rw [reply])
    rw [reply] at step
    rw [show out = _ from congrArg Host.Outcome.next step]
    exact State.leaveInboundQueue_leaves (s := State.placeReply _ _) queue
  · subst failed
    have step := State.inboundReplyStep_plain queue stage room rfl
    rw [show out = _ from congrArg Host.Outcome.next step]
    exact State.leaveInboundQueue_leaves (s := State.placeReply _ _) queue
  · subst done
    have step := State.inboundReplyStep_data queue stage room kind filled
    rw [State.inboundReply_data kind] at step
    rw [show out = _ from congrArg Host.Outcome.next step]
    exact State.leaveInboundQueue_leaves (s := State.setBuffer _ _ _) queue

/-! ### The bus answers with DONE (R126) -/

section Done

variable {p : PortOp} {bytes : List Byte}

/-- The operation on the bus has ended, and its bytes are those of card memory (R126). -/
def State.portDone (s : State) (p : PortOp) (bytes : List Byte) : State :=
  { s with port := { s.port with inFlight := none }, cardMem := memWrite s.cardMem p.cardAddr.toNat bytes }

theorem exec_memoryAnswer_written (flying : s.port.inFlight = some p) (dir : p.dir = .write bytes) :
    exec (.memoryAnswer p.serial (.done [])) s =
      .next ((s.portDone p bytes).handResult p.requester (.done [])).finish := by
  have result : p.resultOf (.done []) = some (.done []) := by simp only [PortOp.resultOf, dir]
  have effect : s.memoryEffect p (.done []) = { s with cardMem := memWrite s.cardMem p.cardAddr.toNat bytes } := by
    simp only [State.memoryEffect, dir]
  refine congrArg (fun u : State => Host.Outcome.next u.finish) (?_ : answerMemory p.serial (.done []) s = _)
  simp only [answerMemory, flying, result, if_true]
  rw [State.endOperation_eq, effect]
  rfl

theorem exec_memoryAnswer_found (flying : s.port.inFlight = some p) (dir : p.dir = .read)
    (length : bytes.length = p.length) :
    exec (.memoryAnswer p.serial (.done bytes)) s =
      .next ((s.portDone p bytes).handResult p.requester (.done bytes)).finish := by
  have result : p.resultOf (.done bytes) = some (.done bytes) := by simp only [PortOp.resultOf, dir, length, if_true]
  have effect : s.memoryEffect p (.done bytes) = { s with cardMem := memWrite s.cardMem p.cardAddr.toNat bytes } := by
    simp only [State.memoryEffect, dir]
  refine congrArg (fun u : State => Host.Outcome.next u.finish) (?_ : answerMemory p.serial (.done bytes) s = _)
  simp only [answerMemory, flying, result, if_true]
  rw [State.endOperation_eq, effect]
  rfl

end Done

/-! ### The result of the head's operation (R93–R95) -/

/-- The head replies. -/
abbrev State.headReplies (s : State) (o : InboundOp) (rest : List InboundOp) (ok : Bool) : State :=
  { s with imq := { o with stage := .replying ok } :: rest }

section Results

variable {bytes : List Byte} {r : MemResult}

theorem State.inboundResult_posted (queue : s.imq = o :: rest) (kind : o.kind = .write bytes false) :
    s.inboundResult (.done d) = s.leaveInboundQueue := by
  simp only [State.inboundResult, queue, kind]

theorem State.inboundResult_acked (queue : s.imq = o :: rest) (kind : o.kind = .write bytes true) :
    s.inboundResult (.done d) = (s.headReplies o rest true).inboundReplyStep := by
  simp only [State.inboundResult, State.headReplies, queue, kind]

theorem State.inboundResult_read (queue : s.imq = o :: rest) (kind : o.kind = .read b)
    (held : s.pool[b] = .held .responder .assigned) : s.inboundResult (.done d) =
      ((s.headReplies o rest true).setBuffer b (.held .responder (.filled d))).inboundReplyStep := by
  simp only [State.inboundResult, State.headReplies, queue, kind, State.stageBuffer, held]

end Results

/-- Settles O28, by the kind of the head's operation and the room for its reply. -/
theorem inboundMemoryDone : Obligations.InboundMemoryDone := by
  intro s p o rest hb flying requester queue header free waiting
  refine ⟨fun bytes ack dir kind => ?_, fun b bytes dir kind length held => ?_⟩
  · intro out written
    have step : out = .next (written.inboundResult (.done [])).finish := by
      rw [show out = _ from exec_memoryAnswer_written flying dir, requester]
      rfl
    have queue' : written.imq = o :: rest := queue
    refine ⟨fun posted => ?_, fun acked => ⟨fun room => ?_, fun full => ?_⟩⟩
    · subst posted
      rw [step, State.inboundResult_posted queue' kind]
      exact State.finish_leaves (s := written) hb queue
    · subst acked
      have replies := State.inboundReplyStep_plain (s := written.headReplies o rest true) rfl rfl room
        (by rw [State.inboundReply_ack (o := { o with stage := .replying true }) kind])
      rw [step, State.inboundResult_acked queue' kind, replies,
        State.inboundReply_ack (o := { o with stage := .replying true }) kind]
      exact State.finish_leaves (s := State.placeReply (written.headReplies o rest true) _)
        (o := { o with stage := .replying true }) hb rfl
    · subst acked
      rw [step, State.inboundResult_acked queue' kind, State.inboundReplyStep_full (s := written.headReplies o rest true) rfl rfl full]
      exact State.finish_to rfl hb
  · intro out found h
    have step : out = .next (found.inboundResult (.done bytes)).finish := by
      rw [show out = _ from exec_memoryAnswer_found flying dir length, requester]
      rfl
    let filled : State := (found.headReplies o rest true).setBuffer b (.held .responder (.filled bytes))
    rw [step, State.inboundResult_read (s := found) queue kind held]
    refine ⟨fun room => ?_, fun full => ?_⟩
    · rw [State.inboundReplyStep_data (s := filled) rfl rfl room kind (State.getBuffer_setBuffer ..),
        State.inboundReply_data (o := { o with stage := .replying true }) kind]
      have twice : (s.pool.set b (.held .responder (.filled bytes))).set b (.held .responder (.queued bytes h))
          = s.pool.set b (.held .responder (.queued bytes h)) := Vector.set_set ..
      rw [← twice]
      exact State.finish_leaves (s := State.setBuffer (State.placeReply (filled) _) b _)
        (o := { o with stage := .replying true }) hb rfl
    · rw [State.inboundReplyStep_full (s := filled) rfl rfl full]
      exact State.finish_to rfl hb

end Sys2Proof.Machine
end

section
/-! The card memory port: what is presented and granted (R121–R125), and the end of an element fetch (R13, R16, R23). -/

namespace Sys2Proof.Machine

variable {s : State} {m : MoverId} {e : Element} {f : Fetch} {g : Fetcher} {a : Addr}

/-! ### What is presented (R121) -/

theorem State.presented_inbound {o : InboundOp} {rest : List InboundOp} (queue : s.imq = o :: rest)
    (stage : o.stage = .atPort) : s.presented .inbound = some
      ((match o.kind with | .write bytes _ => .write bytes | .read _ => .read), o.cardAddr, o.length) := by
  cases kind : o.kind <;> simp only [State.presented, queue, stage, kind] <;> rfl

theorem State.presented_inbound_none
    (none_at_port : ∀ o rest, s.imq = o :: rest → o.stage ≠ .atPort) : s.presented .inbound = none := by
  cases queue : s.imq with
  | nil => simp only [State.presented, queue]
  | cons o rest =>
    have stage := none_at_port o rest queue
    cases h : o.stage with
    | atPort => exact absurd h stage
    | queued => simp only [State.presented, queue, h]
    | replying ok => simp only [State.presented, queue, h]

theorem State.presented_mover {o : MemOp} {rest : List MemOp} (queue : (s.mover m).queue = o :: rest)
    (stage : o.stage = .queued) : s.presented (.mover m) = some
      ((match o.kind with | .write bytes => .write bytes | .read _ _ => .read), o.cardAddr, o.length) := by
  cases kind : o.kind <;> simp only [State.presented, queue, stage, kind] <;> rfl

theorem State.presented_mover_none
    (none_queued : ∀ o rest, (s.mover m).queue = o :: rest → o.stage ≠ .queued) : s.presented (.mover m) = none := by
  cases queue : (s.mover m).queue with
  | nil => simp only [State.presented, queue]
  | cons o rest =>
    have stage := none_queued o rest queue
    cases h : o.stage with
    | queued => exact absurd h stage
    | atPort => simp only [State.presented, queue, h]
    | filled => simp only [State.presented, queue, h]

/-! ### The grant (R123–R125) -/

theorem grantMemory_idle (idle : s.port.inFlight ≠ none ∨ ∀ q, s.presented q = none) : grantMemory s = s := by
  have nothing : s.port.inFlight = none → s.nextGrant = none := fun free => by
    refine List.find?_eq_none.2 fun q _ => ?_
    rw [(idle.resolve_left (not_not.2 free)) q]
    decide
  unfold grantMemory
  split
  · next free granted =>
    rw [nothing free] at granted
    cases granted
  · rfl

/-- An operation of `r` is in flight, served last (R123, R127). -/
def State.portGranted (s : State) (r : Requester) (dir : PortDir) (a : Addr) (n : Nat) : State :=
  { s with port :=
    { inFlight := some
        { requester := some r, dir := dir, cardAddr := a, length := n
          timeoutEnd := s.now + s.mgmt.params.memoryTimeout, serial := s.port.nextSerial }
      lastServed := r, nextSerial := s.port.nextSerial + 1 } }

section Grants

variable {r : Requester} {dir : PortDir} {n : Nat}

theorem grantMemory_issued (free : s.port.inFlight = none) (next : s.nextGrant = some r)
    (presented : s.presented r = some (dir, a, n)) (fits : a.toNat + n ≤ 0x100000000) :
    grantMemory s = (s.markGranted r).portGranted r dir a n := by
  have inside : crossesTop a n = false := decide_eq_false (by omega)
  have kept : (s.markGranted r).now = s.now ∧ (s.markGranted r).mgmt = s.mgmt ∧ (s.markGranted r).port = s.port := by
    cases r with
    | mover m => cases m <;> exact ⟨rfl, rfl, rfl⟩
    | _ => exact ⟨rfl, rfl, rfl⟩
  simp only [grantMemory, free, next, presented, inside, Bool.false_eq_true, if_false]
  rfl

theorem grantMemory_not_issued (free : s.port.inFlight = none) (next : s.nextGrant = some r)
    (presented : s.presented r = some (dir, a, n)) (crosses : 0x100000000 < a.toNat + n) :
    grantMemory s = State.handResult
      { s.markGranted r with port := { (s.markGranted r).port with lastServed := r } } (some r) .notIssued := by
  have outside : crossesTop a n = true := decide_eq_true crosses
  simp only [grantMemory, free, next, presented, outside, if_true]

end Grants

/-! ### A fetch that fails (R13, R16, R23) -/

theorem State.raisedBy_fetchFails {r : MemResult} (hb : s.between) (flying : s.fetcher.inFlight = some f)
    (failed : r.failed = true) :
    State.fetchFails { s with fetcher := Fetcher.start { s.fetcher with inFlight := none } } f
      (.next ((s.raisedBy (some .memoryError)).fetchResult r).finish) := by
  have fails := State.fetchResult_fails (s.raisedBy (some .memoryError)) f r flying rfl failed
  have ended : State.atEnd { s.raisedBy (some .memoryError) with fetcher := { s.fetcher with inFlight := none } }
      = { s with fetcher := Fetcher.start { s.fetcher with inFlight := none } } := by
    simp only [State.atEnd, State.raisedBy, hb.1]
  exact (congrArg (fun t : State => t.fetchFails f _) ended).mp fails

/-- Settles O27: what each requester presents, which is granted, and what its operation comes to. -/
theorem memoryGranted : Obligations.MemoryGranted := by
  intro s
  refine ⟨⟨fun o rest => State.presented_inbound, State.presented_inbound_none, rfl,
      fun m => ⟨fun o rest => State.presented_mover, State.presented_mover_none⟩⟩,
    s.nextGrant_eq_some, fun hb idle => State.finish_to (grantMemory_idle idle) hb,
    fun r dir a n hb free next presented => ⟨fun fits => ⟨?_, ?_⟩, fun f crosses fetch flying => ?_⟩⟩
  · have issued := grantMemory_issued free next presented fits
    rintro (rfl | rfl) <;> exact State.finish_to issued hb
  · rintro m o rest rfl queue
    refine State.finish_to ((grantMemory_issued free next presented fits).trans ?_)
      (State.between.setMover (s := s.portGranted _ _ _ _) hb m _)
    rw [State.markGranted, queue]
    cases m <;> rfl
  · subst fetch
    let served : State := { s with port := { s.port with lastServed := .fetch } }
    have step : grantMemory s = (served.raisedBy (some .memoryError)).fetchResult .notIssued :=
      (grantMemory_not_issued free next presented crosses).trans
        (congrArg (fun u : State => u.fetchResult .notIssued) (State.raise_eq_raisedBy (s := served) hb _))
    rw [show exec .memoryGrant s = .next (grantMemory s).finish from rfl, step]
    exact State.raisedBy_fetchFails (s := served) hb flying rfl

end Sys2Proof.Machine
end

section
/-! The element fetch ends with DONE: an element becomes current, fills the look-ahead slot, or fails (R7, R13, R15,
R16, R23). -/

namespace Sys2Proof.Machine

variable {s : State} {m : MoverId} {e : Element} {f : Fetch} {g : Fetcher} {a : Addr} {v : Mover}

/-! ### The end of a step that changes the fetcher -/

/-- The next fetch starts at the end of a step that changes a mover and the fetcher (R12). -/
theorem State.finish_fetching (none_raised : s.raised = []) (g : Fetcher) (m : MoverId) (v : Mover) :
    (State.setMover { s with fetcher := g } m v).finish = State.setMover { s with fetcher := g.start } m v := by
  rw [State.finish_raisedNone _ (by rw [State.setMover_raised]; exact none_raised), State.atEnd_setMover]
  exact congrArg (fun l : List Event => State.setMover { s with fetcher := g.start, raised := l } m v)
    none_raised.symm

theorem State.finish_fetching_raise (none_raised : s.raised = []) (g : Fetcher) (m : MoverId) (v : Mover)
    (x : Event) :
    ((State.setMover { s with fetcher := g } m v).raise x).finish =
      (State.setMover { s with fetcher := g.start } m v).takeOccurrence x := by
  have raised : ((State.setMover { s with fetcher := g } m v).raise x).raised = [x] := by
    rw [State.raise_raised, State.setMover_raised]
    exact congrArg (· ++ [x]) none_raised
  rw [State.finish_raisedOne _ x raised]
  refine congrArg (State.takeOccurrence · x) ?_
  rw [← State.setMover_raise, State.atEnd_setMover]
  exact congrArg (fun l : List Event => State.setMover { s with fetcher := g.start, raised := l } m v)
    none_raised.symm

/-! ### An element becomes current (R15, R23, R30) -/

/-- The mover's record when `e` becomes current. -/
abbrev Mover.carries (v : Mover) (st : MoverState) (next : Option Nat) (e : Element) : Mover :=
  { v with state := st, current := .element e, nextPiece := next, issued := 0, settled := 0 }

theorem State.becomeCurrent_single (op : e.op ≠ .gate) (ends : e.stopAfter = true ∨ e.next = none) :
    s.becomeCurrent m e = s.setMover m ((s.mover m).carries .moving (some 1) e) := by
  have chains : e.chainsTo = none := by
    rcases ends with h | h <;> simp [Element.chainsTo, h]
  cases h : e.op with
  | gate => exact absurd h op
  | push | pull => simp only [State.becomeCurrent, h, chains]

theorem State.becomeCurrent_chaining (op : e.op ≠ .gate) (goes_on : e.stopAfter = false) (next : e.next = some a) :
    s.becomeCurrent m e = (s.setMover m
      { (s.mover m).carries .moving (some 1) e with lookAhead := .pending }).requestFetch m a := by
  have chains : e.chainsTo = some a := by simp [Element.chainsTo, goes_on, next]
  cases h : e.op with
  | gate => exact absurd h op
  | push | pull => simp only [State.becomeCurrent, h, chains]

theorem State.becomeCurrent_gate (op : e.op = .gate) : s.becomeCurrent m e =
    (s.setMover m ((s.mover m).carries .gated none e)).raise (.moverGate m) := by
  simp only [State.becomeCurrent, op]

/-! ### The outcome of a fetch (R16, R23) -/

theorem State.requestFetch_setMover (s : State) (m n : MoverId) (v : Mover) (a : Addr) :
    (s.setMover m v).requestFetch n a = (s.requestFetch n a).setMover m v := by
  cases m <;> rfl

theorem State.takeOutcome_becomes (fetching : (s.mover m).state = .fetching) :
    s.takeOutcome m a (.valid e) = s.becomeCurrent m e := by
  simp only [State.takeOutcome, fetching]

theorem State.takeOutcome_halts {k : FaultKind} (fetching : (s.mover m).state = .fetching)
    (none_yet : (s.mover m).fault = none) : s.takeOutcome m a (.failed k) =
      (s.setMover m { (s.mover m).ended .halted none with
        fault := some { kind := k, elemAddr := a, remote := none, tag := none, nak := none, further := 0 } }).raise
        (.moverHalted m) := by
  simp only [State.takeOutcome, State.takeFault, fetching, State.haltMover, State.mover_setMover_same,
    State.setMover_setMover, Mover.noteFault, none_yet, elementFault, Mover.rest]

theorem State.takeOutcome_held (moving : (s.mover m).state = .moving) :
    s.takeOutcome m a (.valid e) = s.setMover m { s.mover m with lookAhead := .held e } := by
  simp only [State.takeOutcome, moving]

theorem State.takeOutcome_failed {k : FaultKind} (moving : (s.mover m).state = .moving) :
    s.takeOutcome m a (.failed k) = s.setMover m { s.mover m with lookAhead := .failed k a } := by
  simp only [State.takeOutcome, moving]

theorem State.fetchResult_done {bytes : List Byte} (flying : s.fetcher.inFlight = some f)
    (kept : f.discarded = false) : s.fetchResult (.done bytes) =
      State.takeOutcome { s with fetcher := { s.fetcher with inFlight := none } } f.mover f.addr
        (validateElement s.ring.ownSlot f.addr bytes) := by
  simp only [State.fetchResult, flying, kept, Bool.false_eq_true, if_false]

theorem State.fetchResult_dropped {r : MemResult} (flying : s.fetcher.inFlight = some f)
    (discarded : f.discarded = true) : s.fetchResult r =
      State.fetchDropped { s with fetcher := { s.fetcher with inFlight := none } } f.mover := by
  simp only [State.fetchResult, flying, discarded, if_true]

/-- Settles O29, by the outcome of the fetch and the state of the mover that it is for. -/
theorem fetchDone : Obligations.FetchDone := by
  refine ⟨Fetcher.start_startsAs, fun s p f bytes hb flying requester dir length fetching => ?_⟩
  intro v out outcome ended seen current
  let found := s.portDone p bytes
  have raised : found.raised = [] := hb.1
  have step : out = .next (found.fetchResult (.done bytes)).finish := by
    rw [show out = _ from exec_memoryAnswer_found flying dir length, requester]
    rfl
  let t : State := { found with fetcher := ended }
  have mover : t.mover f.mover = v := rfl
  have takes (kept : f.discarded = false) {o : FetchOutcome} (is : outcome = o) :
      out = .next (t.takeOutcome f.mover f.addr o).finish := by
    rw [step, State.fetchResult_done (s := found) fetching kept, ← is]
    rfl
  refine ⟨fun kept state e valid => ⟨fun op ends => ?_, fun a op goes_on next => ?_, fun op => ?_⟩,
    fun kept state none_yet k failed => ?_, fun kept state e valid => ?_, fun kept state k failed => ?_,
    fun discarded => ?_⟩
  · rw [takes kept valid, State.takeOutcome_becomes (by rw [mover]; exact state),
      State.becomeCurrent_single op ends, mover]
    exact congrArg _ (State.finish_fetching raised ended _ _)
  · rw [takes kept valid, State.takeOutcome_becomes (by rw [mover]; exact state),
      State.becomeCurrent_chaining op goes_on next, mover, State.requestFetch_setMover]
    exact congrArg _ (State.finish_fetching raised (ended.setWaiting f.mover (some a)) _ _)
  · rw [takes kept valid, State.takeOutcome_becomes (by rw [mover]; exact state), State.becomeCurrent_gate op, mover]
    exact congrArg _ (State.finish_fetching_raise raised ended _ _ _)
  · rw [takes kept failed, State.takeOutcome_halts (by rw [mover]; exact state) (by rw [mover]; exact none_yet), mover]
    exact congrArg _ (State.finish_fetching_raise raised ended _ _ _)
  · rw [takes kept valid, State.takeOutcome_held (by rw [mover]; exact state), mover]
    exact congrArg _ (State.finish_fetching raised ended _ _)
  · rw [takes kept failed, State.takeOutcome_failed (by rw [mover]; exact state), mover]
    exact congrArg _ (State.finish_fetching raised ended _ _)
  · have drops := State.fetchDropped_discardEnds t f.mover none raised nofun
    have atEnd : t.atEnd = seen ended :=
      congrArg (fun l : List Event => ({ seen ended with raised := l } : State)) raised.symm
    rw [step, State.fetchResult_dropped (s := found) fetching discarded, ← atEnd]
    exact drops

end Sys2Proof.Machine
end

section
/-! A mover's operation on card memory ends with DONE (R27, R28, R129), the WRITE cell of a PUSH piece (R27, R111), and
the issuing of pieces (R24–R26). -/

namespace Sys2Proof.Machine

variable {s : State} {m : MoverId} {b : BufNo} {t : Option TagNo} {o : MemOp} {rest : List MemOp} {x : Xfer}
  {d : List Byte}

/-! ### The WRITE cell of a PUSH piece (R27, R111) -/

theorem State.writeCell_eq (s : State) (m : MoverId) (slot : Slot) (o : MemOp) (b : BufNo) (t : Option TagNo) :
    s.writeCell m slot o b t =
      { kind := .write, mover := m, buffer := some b
        header :=
          { dest := slotByte slot, source := slotByte s.ring.ownSlot, kind := 1, origin := moverByte m
            tag := tagByte t, hops := byteOf s.mgmt.params.hopLimit, length := byteOf o.length
            flags := if t = none then 0 else 1, ringAddr := o.remote, seq := 0, status := 0 } } := by
  cases t <;> rfl

theorem State.setBuffer_setMover (s : State) (m : MoverId) (v : Mover) (b : BufNo) (u : Buffer) :
    (s.setMover m v).setBuffer b u = (s.setBuffer b u).setMover m v := by
  cases m <;> rfl

theorem State.placeRequest_setMover (s : State) (m : MoverId) (v : Mover) (c : RequestCell) :
    (s.setMover m v).placeRequest c = (s.placeRequest c).setMover m v := by
  cases m <;> rfl

/-- The filled read leaves the memory queue, its cell joins the Request Queue and its buffer goes to QUEUED. -/
theorem State.placeWrite_eq (xfer : (s.mover m).xfer = some x) (queue : (s.mover m).queue = o :: rest)
    (filled : s.pool[b] = .held (.mover m) (.filled d)) :
    s.placeWrite m o b t = State.setMover
      ((s.setBuffer b (.held (.mover m) (.queued d (s.writeCell m x.slot o b t).header))).placeRequest
        (s.writeCell m x.slot o b t)) m { s.mover m with queue := rest } := by
  simp only [State.placeWrite, xfer, queue, List.tail_cons, filled, Buffer.data]
  have staged (v : Mover) (st : BufStage) : (s.setMover m v).stageBuffer b st
      = (s.setMover m v).setBuffer b (.held (.mover m) st) := by
    simp only [State.stageBuffer, State.setMover_pool, filled]
  rw [staged, State.setBuffer_setMover, State.placeRequest_setMover]

/-- Settles O34: the mover finishes pieces, a place is free, and the head is a FILLED read. -/
theorem writeCellPlaced : Obligations.WriteCellPlaced := by
  refine ⟨fun s m waits => congrArg Host.Outcome.next (?_ : placeFilled m s = s),
    fun s m o rest b t d x finishing queue kind stage xfer filled room =>
      congrArg Host.Outcome.next (?_ : placeFilled m s = _)⟩
  · unfold placeFilled
    split
    · split
      · refine if_neg ?_
        rw [Bool.and_eq_true, State.requestRoom_iff, MoverState.carrying_iff]
        rintro ⟨room, finishing⟩
        rcases waits with not_finishing | full
        · exact not_finishing finishing
        · omega
      · rfl
    · rfl
  · have may : (s.requestRoom && (s.mover m).state.carrying) = true := by
      rw [Bool.and_eq_true, State.requestRoom_iff, MoverState.carrying_iff]
      exact ⟨room, finishing⟩
    simp only [placeFilled, queue, kind, stage, may, if_true]
    rw [State.placeWrite_eq xfer queue filled, State.writeCell_eq]
    rfl

/-! ### The result of a mover's operation (R129) -/

/-- A step that ends with a mover changed and nothing left to take up. -/
theorem State.finish_setMover {u : State} {v : Mover} (h : u = s.setMover m v) (hb : s.between) :
    (Host.Outcome.next u.finish : Result) = .next (s.setMover m v) :=
  State.finish_to h (hb.setMover m v)

/-- The end of a step in which a draining mover may be quiet, without an occurrence beside. -/
theorem State.finish_released (hb : s.between) : s.released m none (.next (s.checkQuiet m).finish) := by
  have released := State.raisedBy_checkQuiet_released (m := m) (e := none) hb nofun
  rwa [State.raisedBy_none hb] at released

/-- A piece that settles in any other state does not complete the element (R38). -/
theorem State.settlePiece_not_finishing {n : Nat} (h : ¬(s.mover m).finishing) :
    s.settlePiece m n = s.pieceSettled m n := by
  unfold State.settlePiece
  dsimp only
  split
  · split
    · split
      · split
        · next moving => exact absurd (.inl moving) h
        · next stopping => exact absurd (.inr stopping) h
        · rfl
      · rfl
    · rfl
  · rfl

theorem Mover.not_carrying_of_drains {v : Mover} (drains : v.drains) : v.state.carrying = false := by
  rw [← Bool.not_eq_true, MoverState.carrying_iff]
  exact fun finishing => Mover.not_drains_of_finishing finishing drains

/-- A PUSH read is given up: its buffer is freed, and its piece is no longer in flight. -/
theorem State.pushRead_givenUp {st : BufStage} (held : s.pool[b] = .held (.mover m) st) :
    ((s.setMover m { s.mover m with queue := rest }).freeBuffer b).dropPiece m =
      (s.setBuffer b .free).setMover m
        { s.mover m with
          queue := rest, buffersHeld := (s.mover m).buffersHeld - 1
          piecesInFlight := (s.mover m).piecesInFlight - 1 } := by
  have held' : (s.setMover m { s.mover m with queue := rest }).pool[b] = .held (.mover m) st := by
    simp only [State.setMover_pool]
    exact held
  rw [State.freeBuffer_mover held', State.setBuffer_setMover]
  simp only [State.dropPiece, State.mover_setMover_same, State.setMover_setMover]

theorem State.moverResult_placed (queue : (s.mover m).queue = o :: rest) (kind : o.kind = .read b t)
    (finishing : (s.mover m).finishing) (room : s.requestQueue.length < 8) :
    s.moverResult m (.done d) = (s.stageBuffer b (.filled d)).placeWrite m o b t := by
  have carrying : (s.mover m).state.carrying = true := (MoverState.carrying_iff _).2 finishing
  have hroom : s.requestRoom = true := State.requestRoom_iff.2 room
  simp only [State.moverResult, queue, kind, carrying, hroom, if_true]

theorem State.moverResult_filled (queue : (s.mover m).queue = o :: rest) (kind : o.kind = .read b t)
    (finishing : (s.mover m).finishing) (full : ¬s.requestQueue.length < 8) :
    s.moverResult m (.done d) = (s.stageBuffer b (.filled d)).setMover m
      { s.mover m with queue := { o with stage := .filled } :: rest } := by
  have carrying : (s.mover m).state.carrying = true := (MoverState.carrying_iff _).2 finishing
  have hroom : ¬s.requestRoom = true := fun h => full (State.requestRoom_iff.1 h)
  simp only [State.moverResult, queue, kind, carrying, if_true]
  rw [if_neg hroom]

theorem State.moverResult_drained (queue : (s.mover m).queue = o :: rest) (kind : o.kind = .read b t)
    (drains : (s.mover m).drains) (r : MemResult) :
    s.moverResult m r =
      ((((s.setMover m { s.mover m with queue := rest }).freeBuffer b).dropPiece m)).checkQuiet m := by
  have carrying : (s.mover m).state.carrying = false := Mover.not_carrying_of_drains drains
  cases r <;> simp only [State.moverResult, queue, kind, carrying, Bool.false_eq_true, if_false]

theorem State.moverResult_written {payload : List Byte} (queue : (s.mover m).queue = o :: rest)
    (kind : o.kind = .write payload) : s.moverResult m (.done d) =
      ((s.setMover m { s.mover m with queue := rest }).settlePiece m o.length).checkQuiet m := by
  simp only [State.moverResult, queue, kind]

/-- Settles O30, by the kind of the operation and the state of its mover. -/
theorem moverMemoryDone : Obligations.MoverMemoryDone := by
  intro s p m o rest hb flying requester v queue
  refine ⟨fun b t bytes dir kind length held => ?_, fun bytes payload dir kind => ?_⟩
  · intro out found
    have step : out = .next (found.moverResult m (.done bytes)).finish := by
      rw [show out = _ from exec_memoryAnswer_found flying dir length, requester]
      rfl
    have staged : found.stageBuffer b (.filled bytes) = found.setBuffer b (.held (.mover m) (.filled bytes)) := by
      simp only [State.stageBuffer, show found.pool[b] = _ from held]
    refine ⟨fun x finishing xfer => ?_, fun drains => ?_⟩
    · intro h
      refine ⟨fun room => ?_, fun full => ?_⟩
      · let filled : State := found.setBuffer b (.held (.mover m) (.filled bytes))
        have placed := State.placeWrite_eq (s := filled) (t := t) xfer queue (State.getBuffer_setBuffer ..)
        rw [State.writeCell_eq] at placed
        have twice : (s.pool.set b (.held (.mover m) (.filled bytes))).set b (.held (.mover m) (.queued bytes h))
            = s.pool.set b (.held (.mover m) (.queued bytes h)) := Vector.set_set ..
        rw [step, State.moverResult_placed (s := found) queue kind finishing room, staged, placed, ← twice]
        exact State.finish_setMover rfl hb
      · rw [step, State.moverResult_filled (s := found) queue kind finishing full, staged]
        exact State.finish_setMover rfl hb
    · rw [step, State.moverResult_drained (s := found) queue kind drains, State.pushRead_givenUp (s := found) held]
      exact State.finish_released (State.between.setMover (s := found.setBuffer b .free) hb m _)
  · intro out settled
    let found := s.portDone p bytes
    have step : out = .next (found.moverResult m (.done [])).finish := by
      rw [show out = _ from exec_memoryAnswer_written flying dir, requester]
      rfl
    let left : State := found.setMover m { found.mover m with queue := rest }
    have between : left.between := State.between.setMover (s := found) hb m _
    have mover : left.mover m = { v with queue := rest } := State.mover_setMover_same ..
    have settles : left.pieceSettled m o.length = settled := by
      rw [State.pieceSettled, mover, State.setMover_setMover]
      rfl
    rw [step, State.moverResult_written (s := found) queue kind]
    refine ⟨fun e x finishing current xfer => ?_, fun drains => ?_⟩
    · obtain ⟨some_left, all, -⟩ := State.settlePiece_finish (s := left) (m := m) (n := o.length) (e := e) between
        (by rw [mover]; exact current) xfer
      rw [settles, mover] at some_left all
      exact ⟨fun n => congrArg _ (some_left finishing n), fun n => all finishing n⟩
    · have not_finishing : ¬(left.mover m).finishing := by
        rw [mover]
        exact fun finishing => Mover.not_drains_of_finishing finishing drains
      rw [State.settlePiece_not_finishing not_finishing, settles]
      exact State.finish_released (State.between.setMover (s := found) hb m _)

end Sys2Proof.Machine
end

section
/-! The issuing of pieces (R24–R26). -/

namespace Sys2Proof.Machine

variable {s : State} {m : MoverId} {v : Mover} {e : Element} {x : Xfer} {ack : Bool} {n : Nat} {p : Piece} {b : BufNo}
  {t : TagNo}

/-! ### The piece that is due -/

theorem Mover.duePiece_of_not_finishing (h : ¬v.finishing) : v.duePiece = none :=
  if_neg fun carrying => h ((MoverState.carrying_iff v).1 carrying)

theorem Mover.duePiece_eq (finishing : v.finishing) (current : v.current = .element e) (xfer : e.xfer = some x)
    (next : v.nextPiece = some n) (le : n ≤ x.pieceCount) : v.duePiece = some (x.piece n) := by
  have carrying : v.state.carrying = true := (MoverState.carrying_iff v).2 finishing
  simp only [Mover.duePiece, carrying, Mover.xfer, current, xfer, next, le, if_true]

theorem Mover.pushAckReq_eq (current : v.current = .element e) (op : e.op = .push x ack) :
    v.pushAckReq = some ack := by
  simp only [Mover.pushAckReq, current, op]

theorem Xfer.piece_last (x : Xfer) (n : Nat) : (x.piece n).last = true ↔ n = x.pieceCount := decide_eq_true_iff

theorem Mover.untrackedPush_eq (ackReq : v.pushAckReq = some ack) (due : v.duePiece = some p) :
    v.untrackedPush = if (ack && p.last) = true then none else some p := by
  simp only [Mover.untrackedPush, ackReq, due]

theorem Mover.trackedPush_eq (ackReq : v.pushAckReq = some ack) (due : v.duePiece = some p) :
    v.trackedPush = if (ack && p.last) = true then some p else none := by
  simp only [Mover.trackedPush, ackReq, due]

theorem Mover.pushes_nothing (due : v.duePiece = none) :
    v.untrackedPush = none ∧ v.trackedPush = none ∧ v.duePull = none := by
  refine ⟨?_, ?_, ?_⟩
  · cases h : v.pushAckReq <;> simp only [Mover.untrackedPush, h, due]
  · cases h : v.pushAckReq <;> simp only [Mover.trackedPush, h, due]
  · simp only [Mover.duePull, due, ite_self]

/-! ### What is at hand -/

theorem State.bufferAtHand_eq (held : (s.mover m).buffersHeld < 4) (takes : s.moverTakes b) :
    s.bufferAtHand m = some b := (if_pos held).trans ((s.moverBuffer_eq_some b).2 takes)

theorem State.bufferAtHand_none
    (lacking : 4 ≤ (s.mover m).buffersHeld ∨ ∀ b : BufNo, b.val ≤ 5 → ¬s.bufferFree b) : s.bufferAtHand m = none := by
  rcases lacking with held | none_free
  · exact if_neg (Nat.not_lt.2 held)
  · unfold State.bufferAtHand
    split
    · exact s.moverBuffer_eq_none.2 none_free
    · rfl

/-! ### Issues that wait -/

theorem issuePush_waits (waits : (s.mover m).untrackedPush = none ∨ s.bufferAtHand m = none
    ∨ (s.mover m).queueRoom ≠ true) : issuePush m s = s := by
  unfold issuePush
  split
  · next due hand =>
    rw [due, hand] at waits
    exact if_neg ((waits.resolve_left nofun).resolve_left nofun)
  · rfl

theorem issueTracked_waits (waits : (s.mover m).trackedPush = none ∨ s.bufferAtHand m = none
    ∨ (s.mover m).queueRoom ≠ true ∨ s.grantTag m = none) : issueTracked m s = s := by
  unfold issueTracked
  split
  · next due _ hand tag =>
    rw [due, hand, tag] at waits
    exact if_neg (((waits.resolve_left nofun).resolve_left nofun).resolve_right nofun)
  · rfl

theorem issuePull_waits (waits : (s.mover m).duePull = none ∨ s.grantTag m = none ∨ s.requestRoom ≠ true) :
    issuePull m s = s := by
  unfold issuePull
  split
  · next due _ tag =>
    rw [due, tag] at waits
    exact if_neg ((waits.resolve_left nofun).resolve_left nofun)
  · rfl

/-! ### Issues (R24–R26) -/

theorem issuePush_issues (due : (s.mover m).untrackedPush = some p) (hand : s.bufferAtHand m = some b)
    (room : (s.mover m).queueRoom = true) : issuePush m s = s.placeRead m p b none := by
  simp only [issuePush, due, hand, room, if_true]

theorem issueTracked_issues (due : (s.mover m).trackedPush = some p) (xfer : (s.mover m).xfer = some x)
    (hand : s.bufferAtHand m = some b) (tag : s.grantTag m = some t) (room : (s.mover m).queueRoom = true) :
    issueTracked m s = (s.takeTag m t .ackedWrite x.slot p).placeRead m p b (some t) := by
  simp only [issueTracked, due, xfer, hand, tag, room, if_true]

theorem issuePull_issues (due : (s.mover m).duePull = some p) (xfer : (s.mover m).xfer = some x)
    (tag : s.grantTag m = some t) (room : s.requestRoom = true) :
    issuePull m s = State.placeRequest
      ((s.takeTag m t (.read p.cardAddr) x.slot p).setMover m
        (((s.takeTag m t (.read p.cardAddr) x.slot p).mover m).countIssue p)) (s.readCell m x.slot p t) := by
  simp only [issuePull, due, xfer, tag, room, if_true]

theorem State.takeTag_eq (s : State) (m : MoverId) (t : TagNo) (ty : RequestType) (slot : Slot) (p : Piece) :
    s.takeTag m t ty slot p = State.setMover
      (s.setTag t (.waiting { origin := m, type := ty, slot := slot, ringAddr := p.remote, length := p.length
                              elemAddr := (s.mover m).currentAddr } none)) m
      { s.mover m with tagsHeld := (s.mover m).tagsHeld + 1 } := rfl

theorem Mover.currentAddr_element (current : v.current = .element e) : v.currentAddr = e.addr :=
  Mover.currentAddr_of (.inr ⟨e, current, rfl⟩)

/-- Settles O32, by what the piece lacks. -/
theorem pushPieceIssued : Obligations.PushPieceIssued := by
  refine ⟨fun s m idle => ?_, fun s m e x ack n => ?_⟩
  · obtain ⟨untracked, tracked, -⟩ := Mover.pushes_nothing (Mover.duePiece_of_not_finishing idle)
    exact ⟨congrArg _ (issuePush_waits (.inl untracked)), congrArg _ (issueTracked_waits (.inl tracked))⟩
  · intro v finishing current op next le p
    have xfer : e.xfer = some x := by simp only [Element.xfer, op]
    have moverXfer : v.xfer = some x := by simp only [Mover.xfer, current, xfer]
    have due : v.duePiece = some p := Mover.duePiece_eq finishing current xfer next le
    have ackReq : v.pushAckReq = some ack := Mover.pushAckReq_eq current op
    have last : (ack && p.last) = true ↔ ack = true ∧ n = x.pieceCount := by
      rw [Bool.and_eq_true, Xfer.piece_last]
    refine ⟨fun b held takes room => ?_, fun lacking => ?_, fun lacking => ?_⟩
    · intro issued taken
      have hand : s.bufferAtHand m = some b := State.bufferAtHand_eq held takes
      have hroom : v.queueRoom = true := Mover.queueRoom_iff.2 room
      refine ⟨fun plain => congrArg Host.Outcome.next (?_ : issuePush m s = _), fun t tracked at_last tag =>
        congrArg Host.Outcome.next (?_ : issueTracked m s = _)⟩
      · have untracked : v.untrackedPush = some p :=
          (Mover.untrackedPush_eq ackReq due).trans (if_neg (mt last.1 plain))
        refine (issuePush_issues untracked hand hroom).trans ?_
        rfl
      · have tracks : v.trackedPush = some p :=
          (Mover.trackedPush_eq ackReq due).trans (if_pos (last.2 ⟨tracked, at_last⟩))
        refine (issueTracked_issues tracks moverXfer hand ((s.grantTag_eq_some m t).2 tag) hroom).trans ?_
        rw [State.placeRead, State.takeTag_mover, State.takeTag_eq, State.setBuffer_setMover,
          State.setMover_setMover, Mover.currentAddr_element current]
        rfl
    · have none_at_hand : s.bufferAtHand m = none ∨ v.queueRoom ≠ true := by
        rcases lacking with held | none_free | full
        · exact .inl (State.bufferAtHand_none (.inl held))
        · exact .inl (State.bufferAtHand_none (.inr none_free))
        · exact .inr fun room => absurd (Mover.queueRoom_iff.1 room) (Nat.not_lt.2 full)
      exact ⟨congrArg _ (issuePush_waits (.inr none_at_hand)),
        congrArg _ (issueTracked_waits (.inr (none_at_hand.imp_right .inl)))⟩
    · exact congrArg _ (issueTracked_waits (.inr (.inr (.inr ((s.grantTag_eq_none m).2 lacking)))))

/-- Settles O33, by what the piece lacks. -/
theorem pullPieceIssued : Obligations.PullPieceIssued := by
  refine ⟨fun s m idle => ?_, fun s m e x n => ?_⟩
  · obtain ⟨-, -, pull⟩ := Mover.pushes_nothing (Mover.duePiece_of_not_finishing idle)
    exact congrArg _ (issuePull_waits (.inl pull))
  · intro v finishing current op next le p
    have xfer : e.xfer = some x := by simp only [Element.xfer, op]
    have moverXfer : v.xfer = some x := by simp only [Mover.xfer, current, xfer]
    have due : v.duePull = some p := by
      have pulling : v.pulling = true := by simp only [Mover.pulling, current, op]
      rw [Mover.duePull, if_pos pulling]
      exact Mover.duePiece_eq finishing current xfer next le
    refine ⟨fun t tag room => congrArg Host.Outcome.next (?_ : issuePull m s = _), fun lacking => congrArg _ (issuePull_waits (.inr ?_))⟩
    · refine (issuePull_issues due moverXfer ((s.grantTag_eq_some m t).2 tag) (State.requestRoom_iff.2 room)).trans ?_
      rw [State.takeTag_mover, State.takeTag_eq, State.setMover_setMover, State.placeRequest_setMover,
        Mover.currentAddr_element current]
      rfl
    · rcases lacking with lacking | full
      · exact .inl ((s.grantTag_eq_none m).2 lacking)
      · exact .inr fun room => absurd (State.requestRoom_iff.1 room) (Nat.not_lt.2 full)

end Sys2Proof.Machine
end

section
/-! An operation on the bus that fails (R126–R128), and the timers of the Tag Table (R59–R61). -/

namespace Sys2Proof.Machine

variable {s : State} {m : MoverId} {r : MemResult} {b : BufNo} {p : PortOp} {now : Time}

/-! ### The port is free after a failure -/

/-- The operation on the bus has ended with a failure at the time `now`: a read shows nothing of card memory, and a
write leaves what it leaves (R126, R127). -/
def State.portFailed (s : State) (p : PortOp) (now : Time) : State :=
  let late : State := { s with port := { s.port with inFlight := none }, now := now }
  match p.dir with
  | .read => late
  | .write bytes =>
    { late with cardMem := memLeave s.free s.cardMem p.cardAddr.toNat bytes, free := s.free + 1 }

theorem State.portFailed_frame (s : State) (p : PortOp) (now : Time) : ∃ mem k, s.portFailed p now =
    { s with port := { s.port with inFlight := none }, now := now, cardMem := mem, free := k } := by
  unfold State.portFailed
  cases p.dir <;> exact ⟨_, _, rfl⟩

theorem State.portFailed_memory (s : State) (p : PortOp) (now : Time) (a : Nat)
    (outside : ∀ bytes, p.dir = .write bytes →
      ¬(p.cardAddr.toNat ≤ a ∧ a < p.cardAddr.toNat + bytes.length)) :
    memGet (s.portFailed p now).cardMem a = memGet s.cardMem a := by
  unfold State.portFailed
  cases dir : p.dir with
  | read => rfl
  | write bytes =>
    have := outside bytes dir
    exact memGet_memLeave_outside _ _ _ _ _ (by omega)

theorem State.endOperation_failed (failed : r.failed = true) :
    s.endOperation p r = (s.portFailed p s.now).handResult p.requester r := by
  have effect : ({ s.memoryEffect p r with port := { (s.memoryEffect p r).port with inFlight := none } } : State)
      = s.portFailed p s.now := by
    unfold State.portFailed State.memoryEffect
    cases r with
    | done bytes => cases failed
    | error | timeout | notIssued => cases p.dir <;> rfl
  rw [State.endOperation_eq, effect]

/-- The two ways in which an operation fails on the bus. -/
theorem exec_memory_fails {i : Instr} (flying : s.port.inFlight = some p)
    (ends : i = .memoryTimeout ∧ now = max s.now p.timeoutEnd ∨ i = .memoryAnswer p.serial .error ∧ now = s.now) :
    ∃ r : MemResult, r.failed = true
      ∧ exec i s = .next ((s.portFailed p now).handResult p.requester r).finish := by
  rcases ends with ⟨rfl, rfl⟩ | ⟨rfl, rfl⟩
  · refine ⟨.timeout, rfl,
      congrArg (fun u : State => Host.Outcome.next u.finish) (?_ : timeoutMemory s = _)⟩
    simp only [timeoutMemory, flying]
    rw [State.endOperation_failed rfl]
    rfl
  · refine ⟨.error, rfl,
      congrArg (fun u : State => Host.Outcome.next u.finish) (?_ : answerMemory p.serial .error s = _)⟩
    simp only [answerMemory, flying, PortOp.resultOf, if_true]
    rw [State.endOperation_failed rfl]

theorem State.handResult_failed (hb : s.between) (failed : r.failed = true) (q : Requester) :
    s.handResult (some q) r = match q with
      | .inbound => (s.raisedBy (some .memoryError)).inboundResult r
      | .fetch => (s.raisedBy (some .memoryError)).fetchResult r
      | .mover m => (s.raisedBy (some .memoryError)).moverResult m r := by
  rw [← State.raise_eq_raisedBy hb]
  simp only [State.handResult, failed, if_true] <;> rfl

/-! ### An inbound operation that fails (R95) -/

section Inbound

variable {o : InboundOp} {rest : List InboundOp}

/-- The buffer of a READ that fails is free. -/
def State.readFreed (s : State) (o : InboundOp) : State :=
  { s with pool := match o.kind with
      | .read b => s.pool.set b .free
      | .write _ _ => s.pool }

theorem State.inboundResult_failed (failed : r.failed = true) (queue : s.imq = o :: rest)
    (held : ∀ b, o.kind = .read b → s.pool[b] = .held .responder .assigned) :
    s.inboundResult r = ((s.readFreed o).headReplies o rest false).inboundReplyStep := by
  cases kind : o.kind with
  | write bytes ack =>
    cases r with
    | done bytes => cases failed
    | error | timeout | notIssued =>
      cases ack <;> simp only [State.inboundResult, queue, kind, State.readFreed, State.headReplies]
  | read b =>
    have freed : (s.headReplies o rest false).freeBuffer b = (s.readFreed o).headReplies o rest false := by
      rw [State.freeBuffer_responder (s := s.headReplies o rest false) (held b kind), State.readFreed, kind]
      rfl
    rw [← freed]
    cases r with
    | done bytes => cases failed
    | error | timeout | notIssued => simp only [State.inboundResult, queue, kind, State.headReplies]

theorem State.raisedBy_inboundReplyStep_nak (queue : s.imq = o :: rest) (stage : o.stage = .replying false)
    (room : s.replyQueue.length < 8) (e : Option Event) : (s.raisedBy e).inboundReplyStep =
      ((s.placeReply (s.inboundReply o false)).raisedBy e).leaveInboundQueue :=
  State.inboundReplyStep_plain (s := s.raisedBy e) (o := o) (rest := rest) (ok := false) queue stage room rfl

/-- The NAK MEMORY of a failed operation is placed at once, or waits at the head for a place. -/
theorem State.inbound_fails (hb : s.between) (failed : r.failed = true) (queue : s.imq = o :: rest)
    (held : ∀ b, o.kind = .read b → s.pool[b] = .held .responder .assigned) :
    let out : Result := .next (s.handResult (some .inbound) r).finish
    (s.replyQueue.length < 8 →
      ((s.readFreed o).placeReply (s.inboundReply o false)).headLeaves o rest (some .memoryError) out)
    ∧ (¬s.replyQueue.length < 8 → out = .next (State.takeOccurrence
        ((s.readFreed o).headReplies o rest false) .memoryError)) := by
  intro out
  let replies : State := (s.readFreed o).headReplies o rest false
  have step : out = .next ((replies.raisedBy (some .memoryError)).inboundReplyStep).finish := by
    have result := State.inboundResult_failed (s := s.raisedBy (some .memoryError)) failed queue held
    exact congrArg (fun u : State => Host.Outcome.next u.finish) ((State.handResult_failed hb failed _).trans result)
  refine ⟨fun room => ?_, fun full => ?_⟩
  · have placed := State.raisedBy_inboundReplyStep_nak (s := replies) (o := { o with stage := .replying false })
      rfl rfl room (some .memoryError)
    rw [step, placed]
    exact State.raisedBy_leaves (s := replies.placeReply (s.inboundReply o false))
      (o := { o with stage := .replying false }) hb rfl (some .memoryError)
  · rw [step, State.inboundReplyStep_full (s := replies.raisedBy _) (o := { o with stage := .replying false })
      rfl rfl full, ← State.raise_eq_raisedBy (s := replies) hb]
    exact congrArg _ (State.finish_raise (s := replies) hb _)

end Inbound

/-! ### A mover's operation that fails (R27, R28, R37, R38) -/

section Movers

variable {o : MemOp} {rest : List MemOp}

/-- The test for quiet, made twice, comes to what it comes to at once. -/
theorem State.checkQuiet_checkQuiet (s : State) (m : MoverId) : (s.checkQuiet m).checkQuiet m = s.checkQuiet m := by
  by_cases drains : (s.mover m).drains
  · by_cases quiet : s.quiet m = true
    · refine State.checkQuiet_of_not_drains ?_
      rw [State.checkQuiet, if_pos quiet]
      rcases drains with h | h <;> simp only [h]
      · exact State.haltMover_not_drains s m
      · have not_drains : ¬((s.mover m).rest .idle none).drains := by simp [Mover.drains, Mover.rest]
        rcases State.reportCompletion_cases (s.setMover m ((s.mover m).rest .idle none)) (.moverAbort m) with
          ⟨-, e⟩ | ⟨-, _, _, e⟩ <;> rw [e]
        · rwa [State.mover_setMover_same]
        · have mover := State.mover_setMover_same (s := s) m ((s.mover m).rest .idle none)
          rw [← mover] at not_drains
          exact not_drains
    · rw [show s.checkQuiet m = s from if_neg quiet]
      exact if_neg quiet
  · rw [State.checkQuiet_of_not_drains drains, State.checkQuiet_of_not_drains drains]

theorem State.takeFault_checkQuiet {f : FaultRecord} (finishing : (s.mover m).finishing) :
    (s.takeFault m f).checkQuiet m = s.takeFault m f := by
  rcases finishing with h | h <;> simp only [State.takeFault, h, State.checkQuiet_checkQuiet]

theorem dataMemory_eq {v : Mover} {a : Addr} (current : v.currentAt a) (o : MemOp) : dataMemory v o =
    { kind := .dataMemory, elemAddr := a, remote := some o.remote, tag := o.heldTag, nak := none, further := 0 } := by
  rw [dataMemory, Mover.currentAddr_of current]

/-- The operation has left the memory queue, and its piece is given up. -/
abbrev State.writeGiven (s : State) (m : MoverId) (rest : List MemOp) : State :=
  s.setMover m { s.mover m with queue := rest, piecesInFlight := (s.mover m).piecesInFlight - 1 }

/-- A PUSH read has left the memory queue, its buffer is free, and its piece is given up. -/
abbrev State.readGiven (s : State) (m : MoverId) (rest : List MemOp) (b : BufNo) : State :=
  (s.setBuffer b .free).setMover m
    { s.mover m with
      queue := rest, buffersHeld := (s.mover m).buffersHeld - 1
      piecesInFlight := (s.mover m).piecesInFlight - 1 }

theorem State.moverResult_write_failed {payload : List Byte} (failed : r.failed = true)
    (queue : (s.mover m).queue = o :: rest) (kind : o.kind = .write payload) : s.moverResult m r =
      (((s.writeGiven m rest).takeFault m (dataMemory (s.mover m) o)).checkQuiet m) := by
  have given : (s.setMover m { s.mover m with queue := rest }).dropPiece m = s.writeGiven m rest := by
    simp only [State.dropPiece, State.mover_setMover_same, State.setMover_setMover]
  cases r with
  | done bytes => cases failed
  | error | timeout | notIssued => simp only [State.moverResult, queue, kind, given]

theorem State.moverResult_read_failed {t : Option TagNo} (failed : r.failed = true)
    (queue : (s.mover m).queue = o :: rest) (kind : o.kind = .read b t)
    (held : s.pool[b] = .held (.mover m) .assigned) (finishing : (s.mover m).finishing) : s.moverResult m r =
      (match t with
        | some k => (s.readGiven m rest b).freeTag k
        | none => s.readGiven m rest b).takeFault m (dataMemory (s.mover m) o) := by
  have carrying : (s.mover m).state.carrying = true := (MoverState.carrying_iff _).2 finishing
  have given := State.pushRead_givenUp (rest := rest) held
  cases r with
  | done bytes => cases failed
  | error | timeout | notIssued =>
    cases t <;> simp only [State.moverResult, queue, kind, carrying, given, if_true]

/-- The step of a failed operation of a mover. -/
theorem State.handResult_mover (hb : s.between) (failed : r.failed = true) {u : State}
    (result : (s.raisedBy (some .memoryError)).moverResult m r = u) :
    (Host.Outcome.next (s.handResult (some (.mover m)) r).finish : Result) = .next u.finish := by
  rw [State.handResult_failed hb failed]
  exact congrArg (fun u : State => Host.Outcome.next u.finish) result

/-- A PULL write that fails. -/
theorem State.pullWrite_fails {payload : List Byte} (hb : s.between) (failed : r.failed = true)
    (queue : (s.mover m).queue = o :: rest) (kind : o.kind = .write payload) :
    let out : Result := .next (s.handResult (some (.mover m)) r).finish
    ((s.mover m).finishing → (s.mover m).fault = none →
      (s.writeGiven m rest).faults m (dataMemory (s.mover m) o) (some .memoryError) out)
    ∧ ((s.mover m).drains →
      (s.setMover m (Mover.withFault
        { s.mover m with queue := rest, piecesInFlight := (s.mover m).piecesInFlight - 1 }
        (dataMemory (s.mover m) o))).released m (some .memoryError) out) := by
  intro out
  have given : (s.writeGiven m rest).between := hb.setMover m _
  have mover : (s.writeGiven m rest).mover m =
      { s.mover m with queue := rest, piecesInFlight := (s.mover m).piecesInFlight - 1 } :=
    State.mover_setMover_same ..
  have step : out = .next (((((s.writeGiven m rest).raisedBy (some .memoryError)).takeFault m
      (dataMemory (s.mover m) o)).checkQuiet m).finish) := by
    refine State.handResult_mover hb failed ?_
    have result := State.moverResult_write_failed (s := s.raisedBy (some .memoryError)) failed
      (by rw [State.raisedBy_mover]; exact queue) kind
    rw [State.writeGiven, State.raisedBy_mover, State.setMover_raisedBy] at result
    exact result
  refine ⟨fun finishing none_yet => ?_, fun drains => ?_⟩
  · rw [step, State.takeFault_checkQuiet (by rw [State.raisedBy_mover, mover]; exact finishing)]
    exact State.raisedBy_takeFault_faults given (by rintro a ⟨⟩; rfl) (by rw [mover]; exact finishing)
      (by rw [mover]; exact none_yet) rfl
  · rw [step, State.takeFault_drains (by rw [State.raisedBy_mover, mover]; exact drains) rfl, State.raisedBy_mover,
      State.setMover_raisedBy, mover, State.setMover_setMover]
    exact State.raisedBy_checkQuiet_released (hb.setMover m _) (by rintro a ⟨⟩; rfl)

/-- A PUSH read that fails. -/
theorem State.pushRead_fails {t : Option TagNo} (hb : s.between) (failed : r.failed = true)
    (queue : (s.mover m).queue = o :: rest) (kind : o.kind = .read b t)
    (held : s.pool[b] = .held (.mover m) .assigned) :
    let out : Result := .next (s.handResult (some (.mover m)) r).finish
    ((s.mover m).finishing → (s.mover m).fault = none →
      (t = none → (s.readGiven m rest b).faults m (dataMemory (s.mover m) o) (some .memoryError) out)
      ∧ ∀ k, t = some k → s.tags[k].owner = some m →
        (((s.readGiven m rest b).setTag k .free).setMover m
          { (s.readGiven m rest b).mover m with tagsHeld := (s.mover m).tagsHeld - 1 }).faults m
            (dataMemory (s.mover m) o) (some .memoryError) out)
    ∧ ((s.mover m).drains → (s.readGiven m rest b).released m (some .memoryError) out) := by
  intro out
  have given : (s.readGiven m rest b).between := State.between.setMover (s := s.setBuffer b .free) hb m _
  have mover : (s.readGiven m rest b).mover m =
      { s.mover m with
        queue := rest, buffersHeld := (s.mover m).buffersHeld - 1
        piecesInFlight := (s.mover m).piecesInFlight - 1 } := State.mover_setMover_same ..
  have raisedGiven : (s.raisedBy (some .memoryError)).readGiven m rest b =
      (s.readGiven m rest b).raisedBy (some .memoryError) := by
    cases m <;> rfl
  have queue' : ((s.raisedBy (some .memoryError)).mover m).queue = o :: rest := by
    rw [State.raisedBy_mover]; exact queue
  refine ⟨fun finishing none_yet => ?_, fun drains => ?_⟩
  · have result := State.moverResult_read_failed (s := s.raisedBy (some .memoryError)) failed queue' kind held
      (by rw [State.raisedBy_mover]; exact finishing)
    rw [State.raisedBy_mover, raisedGiven] at result
    refine ⟨fun untracked => ?_, fun k tracked owner => ?_⟩
    · subst untracked
      rw [show out = _ from State.handResult_mover hb failed result]
      exact State.raisedBy_takeFault_faults given (by rintro a ⟨⟩; rfl) (by rw [mover]; exact finishing)
        (by rw [mover]; exact none_yet) rfl
    · subst tracked
      have owned : ((s.readGiven m rest b).raisedBy (some .memoryError)).tags[k].owner = some m := by
        rw [show ((s.readGiven m rest b).raisedBy (some .memoryError)).tags = s.tags from State.setMover_tags ..]
        exact owner
      rw [show out = _ from State.handResult_mover hb failed result]
      dsimp only
      rw [State.freeTag_owned owned, State.raisedBy_mover]
      rw [show ((s.readGiven m rest b).raisedBy (some .memoryError)).setTag k .free
        = ((s.readGiven m rest b).setTag k .free).raisedBy (some .memoryError) from rfl, State.setMover_raisedBy]
      rw [show ((s.readGiven m rest b).mover m).tagsHeld = (s.mover m).tagsHeld by rw [mover]]
      exact State.raisedBy_takeFault_faults
        (State.between.setMover (s := (s.readGiven m rest b).setTag k .free) given m _) (by rintro a ⟨⟩; rfl)
        (by rw [State.mover_setMover_same, mover]; exact finishing)
        (by rw [State.mover_setMover_same, mover]; exact none_yet) rfl
  · have result := State.moverResult_drained (s := s.raisedBy (some .memoryError)) queue' kind
      (by rw [State.raisedBy_mover]; exact drains) r
    rw [State.pushRead_givenUp (s := s.raisedBy (some .memoryError)) held] at result
    rw [show out = _ from State.handResult_mover hb failed (result.trans
      (congrArg (fun u : State => u.checkQuiet m) raisedGiven))]
    exact State.raisedBy_checkQuiet_released given (by rintro a ⟨⟩; rfl)

end Movers

end Sys2Proof.Machine
end

section
/-! An operation on the bus that fails (R126–R128), settled, and the timers of the Tag Table (R59–R61). -/

namespace Sys2Proof.Machine

variable {s : State} {m : MoverId} {t : TagNo} {i : TagInfo}

/-- Settles O31, by the requester of the operation. -/
theorem memoryTimesOut : Obligations.MemoryTimesOut := by
  intro s hb
  refine ⟨fun n answer stranger => State.finish_to ?_ hb, fun p i now flying ends => ?_⟩
  · unfold answerMemory
    split
    · next p flying => exact if_neg (stranger p flying)
    · rfl
  · obtain ⟨r, failed, step⟩ := exec_memory_fails flying ends
    obtain ⟨mem, k, frame⟩ := s.portFailed_frame p now
    intro out late left
    have left_eq : left = s.portFailed p now := rfl
    have memory := State.portFailed_memory s p now
    rw [← left_eq] at step frame memory
    clear_value left
    let failedPort : State :=
      { s with port := { s.port with inFlight := none }, now := now, cardMem := mem, free := k }
    subst frame
    refine ⟨memory, fun none => ?_, fun o rest inbound queue held => ?_, fun f fetch flying => ?_,
      fun m o rest mover queue => ?_⟩
    · rw [show out = _ from step, none]
      exact State.finish_to rfl hb
    · rw [show out = _ from step, inbound]
      exact State.inbound_fails (s := failedPort) hb failed queue held
    · rw [show out = _ from step, fetch, State.handResult_failed (s := failedPort) hb failed]
      exact State.raisedBy_fetchFails (s := failedPort) hb flying failed
    · rw [show out = _ from step, mover]
      intro v fault
      have memoryFault {a : Addr} {t : Option TagNo} (current : v.currentAt a) (tag : o.heldTag = t) :
          dataMemory v o = fault a t := tag ▸ dataMemory_eq current o
      have current_of {e : Element} (current : v.current = .element e) : v.currentAt e.addr := .inr ⟨e, current, rfl⟩
      have untagged {payload : List Byte} (kind : o.kind = .write payload) : o.heldTag = none := by
        simp only [MemOp.heldTag, kind]
      have tagged {b : BufNo} {t : Option TagNo} (kind : o.kind = .read b t) : o.heldTag = t := by
        simp only [MemOp.heldTag, kind]
      refine ⟨fun payload e kind finishing current none_yet => ?_, fun b t e kind held finishing current none_yet => ?_,
        fun payload a kind drains current => ?_, fun b t kind held drains => ?_⟩
      · rw [← memoryFault (current_of current) (untagged kind)]
        exact (State.pullWrite_fails (s := failedPort) hb failed queue kind).1 finishing none_yet
      · obtain ⟨untracked, tracked⟩ :=
          (State.pushRead_fails (s := failedPort) hb failed queue kind held).1 finishing none_yet
        have record := memoryFault (current_of current) (tagged kind)
        refine ⟨?_, fun k tag owner => ?_⟩
        · rintro rfl
          rw [← record]
          exact untracked rfl
        · have faulted := tracked k tag owner
          rw [State.setTag, show (State.readGiven failedPort m rest b).tags = s.tags from State.setMover_tags ..]
            at faulted
          rw [← record]
          exact faulted
      · rw [← memoryFault current (untagged kind)]
        exact (State.pullWrite_fails (s := failedPort) hb failed queue kind).2 drains
      · exact (State.pushRead_fails (s := failedPort) hb failed queue kind held).2 drains

/-! ### The timers of the Tag Table (R59–R61) -/

/-- The test for quiet raises MOVERn_HALTED at most, and touches no event record. -/
theorem State.checkQuiet_raises (s : State) (m : MoverId) : ∃ b : Option Event,
    (b = none ∨ b = some (.moverHalted m)) ∧ (s.checkQuiet m).raised = s.raised ++ b.toList
      ∧ (s.checkQuiet m).events = s.events := by
  have reported (u : State) (what : DeferTarget) :
      (u.reportCompletion what).raised = u.raised ∧ (u.reportCompletion what).events = u.events := by
    rcases u.reportCompletion_cases what with ⟨-, h⟩ | ⟨-, _, _, h⟩ <;> rw [h] <;> exact ⟨rfl, rfl⟩
  unfold State.checkQuiet
  split
  · split
    · exact ⟨some (.moverHalted m), .inr rfl, by simp [State.haltMover], by simp [State.haltMover]⟩
    · obtain ⟨raised, events⟩ := reported (s.setMover m ((s.mover m).rest .idle none)) (.moverAbort m)
      exact ⟨none, .inl rfl, by simp [raised], by simp [events]⟩
    · exact ⟨none, .inl rfl, by simp, rfl⟩
  · exact ⟨none, .inl rfl, by simp, rfl⟩

/-- The occurrence beside a test for quiet is counted. -/
theorem State.checkQuiet_counts {e : Event} (he : e.mover? = none) (m : MoverId) :
    (((s.raisedBy (some e)).checkQuiet m).finish).events.records[e.number] =
      { pending := true, count := min 255 (s.events.records[e.number].count + 1) } := by
  obtain ⟨b, halted, raised, events⟩ := (s.raisedBy (some e)).checkQuiet_raises m
  obtain ⟨swap, taken⟩ := State.finish_answers ((s.raisedBy (some e)).checkQuiet m) (some e) b raised
    (by rintro a ⟨⟩; exact he)
  have apart : ∀ x ∈ some e, ∀ y ∈ b, x.number ≠ y.number := by
    rintro x ⟨⟩ y hy
    rcases halted with rfl | rfl
    · cases hy
    · cases hy
      exact e.number_ne_halted m he
  obtain ⟨-, records⟩ := ((s.raisedBy (some e)).checkQuiet m).atEnd.takes_records swap (some e) b apart
  rw [Host.Outcome.next.inj taken, records, if_pos (.inl ⟨e, rfl, rfl⟩)]
  exact congrArg (fun u : EventUnit => u.records[e.number].bump) events

/-- The tag is QUARANTINED from the time `now`, and its owner counts neither it nor its piece (R59, R60). -/
abbrev State.expiredTag (s : State) (t : TagNo) (x : Tag) (now : Time) (m : MoverId) : State :=
  State.setMover { s with now := now, tags := s.tags.set t x } m
    { s.mover m with tagsHeld := (s.mover m).tagsHeld - 1, piecesInFlight := (s.mover m).piecesInFlight - 1 }

theorem State.dropTag_expired {x : Tag} (hb : s.between) (owner : s.tags[t].owner = some m) (d : Time) :
    (((s.reach d).dropTag t x).raise .tagExpired).dropPiece m =
      (s.expiredTag t x (max s.now d) m).raisedBy (some .tagExpired) := by
  have dropped : (((s.reach d).dropTag t x).raise .tagExpired).dropPiece m =
      (((s.reach d).dropTag t x).dropPiece m).raise .tagExpired := by
    rw [State.dropPiece, State.raise_mover, State.setMover_raise]
    rfl
  rw [dropped, State.dropTag_dropPiece (s := s.reach d) owner,
    State.raise_eq_raisedBy (State.between.setMover (s := (s.reach d).setTag t x) hb m _)]
  rfl

/-- Settles O37, by the entry of the tag. -/
theorem tagTimers : Obligations.TagTimers := by
  intro s t i v counted quarantined given
  have expired (d : Time) : s.expiredTag t (quarantined d) (max s.now d) i.origin = given d := rfl
  have between (hb : s.between) (d : Time) : (given d).between :=
    State.between.setMover (s := { s with now := max s.now d, tags := s.tags.set t (quarantined d) }) hb _ _
  have mover (d : Time) : (given d).mover i.origin =
      { v with tagsHeld := v.tagsHeld - 1, piecesInFlight := v.piecesInFlight - 1 } := State.mover_setMover_same ..
  have abandons {d : Time} (hb : s.between) (abandoned : s.tags[t] = .abandoned i (some d)) :
      exec (.tagDeadlineExpiry t) s =
        .next ((((given d).raisedBy (some .tagExpired)).checkQuiet i.origin).finish) := by
    refine congrArg (fun u : State => Host.Outcome.next u.finish) (?_ : expireTag t s = _)
    simp only [expireTag, abandoned]
    rw [State.dropTag_expired hb (by rw [abandoned]; rfl)]
    rfl
  refine ⟨fun d hb waiting none_yet finishing => ?_, fun d hb abandoned => ?_, fun d hb abandoned => ?_,
    fun e quarantine => ?_⟩
  · have step : expireTag t s = ((given d).raisedBy (some .tagExpired)).takeFault i.origin
        (tagFault .responseTimeout t i none) := by
      simp only [expireTag, waiting]
      rw [State.dropTag_expired hb (by rw [waiting]; rfl)]
      rfl
    rw [show exec (.tagDeadlineExpiry t) s = .next (expireTag t s).finish from rfl, step]
    exact State.raisedBy_takeFault_faults (between hb d) (by rintro a ⟨⟩; rfl) (by rw [mover]; exact finishing)
      (by rw [mover]; exact none_yet) rfl
  · obtain ⟨⟨w, taken, acts, tag, fault, held⟩, -⟩ := State.abandoned_taken (u := s.reach d) hb (some .tagExpired)
      i.origin t (quarantined d) (by rintro a ⟨⟩; rfl) (by rw [State.reach_tags, abandoned]; rfl)
    refine ⟨w, (abandons hb abandoned).trans taken, acts, tag, ?_, fault, held⟩
    have counts := State.checkQuiet_counts (s := given d) (e := .tagExpired) rfl i.origin
    rw [show (given d).events = s.events from State.setMover_events ..] at counts
    rw [← Host.Outcome.next.inj taken]
    exact counts
  · rw [abandons hb abandoned]
    exact State.raisedBy_checkQuiet_released (between hb d) (by rintro a ⟨⟩; rfl)
  · refine congrArg Host.Outcome.next (?_ : endQuarantine t s = _)
    simp only [endQuarantine, quarantine]
    rfl

end Sys2Proof.Machine
end

section
/-! The Management Unit: which entry executes a command, what a taken cell comes to by its sender (R157–R162), and the
commands of the claim's timer, the queries, the windows and the start of a mover. -/

namespace Sys2Proof.Machine

variable {s t : State} {c : RxCell} {m : Slot} {cmd : Command} {st : Status} {results : List Byte}

/-! ### The entry of a command -/

/-- The entry that executes a command from the manager. -/
def entryOf : Option Command → Entry
  | none => unknownEntry
  | some .claim => claimEntry
  | some .release => releaseEntry
  | some .readStatus => readStatusEntry
  | some .readEvents => readEventsEntry
  | some .setParams => setParamsEntry
  | some .windowOpen => windowOpenEntry
  | some .windowClose => windowCloseEntry
  | some .windowQuery => windowQueryEntry
  | some .moverStart => moverStartEntry
  | some .moverStop => moverStopEntry
  | some .moverResume => moverResumeEntry
  | some .moverAbort => moverAbortEntry
  | some .moverClear => moverClearEntry
  | some .moverQuery => moverQueryEntry
  | some .nodeReset => nodeResetEntry

/-- How a command answers a non-manager (R160). -/
def strangerOf : Option Command → Stranger
  | some .claim => claimStranger
  | some .readStatus => readStatusStranger
  | _ => notManager

theorem exec_managed {i : Instr} {k : Option Command} (managed : i.managed = some k) (s : State) :
    exec i s = .next (s.takeMgmt k (entryOf k) (strangerOf k)).finish := by
  cases i <;> cases managed <;> rfl

/-- A payload names the command of its first byte. -/
theorem commandOf_of_code {p : List Byte} (nonempty : p.length = cmd.requestLength) (code : byteAt p 0 = cmd.code) :
    commandOf p = some cmd := by
  cases p with
  | nil => cases cmd <;> cases nonempty
  | cons b l =>
    obtain rfl : b = cmd.code := code
    cases cmd <;> rfl

/-! ### A taken cell -/

theorem State.takeMgmt_offered {k : Option Command} (offers : s.offers c) (named : commandOf c.payload = k)
    (entry : Entry) (stranger : Stranger) :
    s.takeMgmt k entry stranger = State.handleCell { s with inbound := s.inbound.taken } c entry stranger := by
  obtain ⟨hand, head, ready, last, deferred⟩ := offers
  have waiting : s.mgmt.replyWaiting = false := by simp only [Mgmt.replyWaiting, last, deferred]; rfl
  simp only [State.takeMgmt, State.mgmtInHand, hand, head, named, ready, waiting, Bool.false_eq_true, if_false, if_true]
  rfl

theorem State.handleCell_discarded (above : 31 < c.header.source.toNat) (entry : Entry) (stranger : Stranger) :
    s.handleCell c entry stranger = s := if_pos above

theorem State.handleCell_manager (manager : s.mgmt.claim.manager = some m) (source : c.header.source = slotByte m)
    (entry : Entry) (stranger : Stranger) : s.handleCell c entry stranger = s.handleManager c entry := by
  have low : ¬c.header.source.toNat > 31 := by
    rw [source]
    exact Nat.not_lt.2 (slotByte_le m)
  have from_manager : s.fromManager c = true := by
    simp only [State.fromManager, manager, source, decide_true]
  rw [State.handleCell, if_neg low, if_pos from_manager]

theorem State.handleCell_stranger (low : c.header.source.toNat ≤ 31)
    (other : ∀ m, s.mgmt.claim.manager = some m → c.header.source ≠ slotByte m) (entry : Entry)
    (stranger : Stranger) : s.handleCell c entry stranger = stranger c s := by
  have not_manager : ¬s.fromManager c = true := by
    unfold State.fromManager
    split
    · next m manager => simpa only [decide_eq_true_eq] using other m manager
    · decide
  rw [State.handleCell, if_neg (Nat.not_lt.2 low), if_neg not_manager]

/-- A reply that is sent and not stored (R160). -/
theorem State.sendReply_sentOnly (hs : st = .ok ∨ results = []) :
    State.sendReply { s with inbound := s.inbound.taken } c (c.replyWith st results) false =
      s.sentOnly c st results := by
  have payload : replyPayload c.codeByte st results = byteAt c.payload 0 :: st.code :: results := by
    rcases hs with rfl | rfl
    · rfl
    · rw [replyPayload, ite_self]
      rfl
  simp only [State.sendReply, RxCell.replyWith, payload]
  rfl

/-- A command open to all of which none is deferred, with the right length (R160). -/
theorem openToAll_executes {body : Stranger} (none_deferred : s.mgmt.deferred = none) (length : c.payload.length = 1) :
    openToAll body c s = body c s := by
  simp only [openToAll, none_deferred, length, ne_eq, not_true_eq_false, if_false]

/-! ### A new command of the manager -/

/-- The claim is CLAIMED, the lapse timer restarts and the reply is stored and waits, in a state that the entry has
come to. -/
theorem State.takeMgmt_replies (hn : s.newCommand c m) (hc : commandOf c.payload = some cmd)
    (hl : c.payload.length = cmd.requestLength) {entry : Entry} (stranger : Stranger)
    (he : entry c (s.executing m) = (t, .reply st results)) (mgmt : t.mgmt = (s.executing m).mgmt)
    (now : t.now = s.now) (hs : st = .ok ∨ results = []) :
    s.takeMgmt (some cmd) entry stranger = { t with mgmt := (s.answered c m st results).mgmt } := by
  rw [State.takeMgmt_answered hn hc hl entry stranger he (by rw [mgmt]; rfl) hs, mgmt, now]
  rfl

/-- The command is deferred, in a state that the entry has come to (R163). -/
theorem State.takeMgmt_defers (hn : s.newCommand c m) (hc : commandOf c.payload = some cmd)
    (hl : c.payload.length = cmd.requestLength) {entry : Entry} (stranger : Stranger) {what : DeferTarget}
    (he : entry c (s.executing m) = (t, .defer what)) (mgmt : t.mgmt = (s.executing m).mgmt)
    (now : t.now = s.now) :
    s.takeMgmt (some cmd) entry stranger = { t with mgmt := (s.deferredBy c m what).mgmt } := by
  have step := State.takeMgmt_new hn hc hl entry stranger
  rw [show entry c { s with inbound := s.inbound.taken, mgmt := { s.mgmt with claim := .claimed m } } = _ from he]
    at step
  rw [step]
  simp only [State.conclude, State.restartLapse, mgmt, now]
  rfl

/-- The step of a new command that answers at once and leaves nothing to take up. -/
theorem State.finish_takeMgmt_replies (hb : t.between) (hn : s.newCommand c m)
    (hc : commandOf c.payload = some cmd) (hl : c.payload.length = cmd.requestLength) {entry : Entry}
    (stranger : Stranger) (he : entry c (s.executing m) = (t, .reply st results))
    (mgmt : t.mgmt = (s.executing m).mgmt) (now : t.now = s.now) (hs : st = .ok ∨ results = []) :
    (s.takeMgmt (some cmd) entry stranger).finish = { t with mgmt := (s.answered c m st results).mgmt } := by
  rw [State.takeMgmt_replies hn hc hl stranger he mgmt now hs]
  exact State.finish_between _ hb

/-! ### The timers of the claim and of the attention (R159, R193) -/

/-- Settles O38: the claim lapses, and the repeat timer restarts. -/
theorem commandTimers : Obligations.CommandTimers := by
  intro s m t
  refine ⟨fun claim timer => congrArg Host.Outcome.next (?_ : lapseClaim s = _),
    fun sent timer manager => congrArg Host.Outcome.next (?_ : repeatAttention s = _)⟩
  · simp only [lapseClaim, claim, timer]
    rfl
  · simp only [repeatAttention, sent, timer, State.reach, State.repeatExpiry, manager]
    cases s.events.waiting <;> rfl

/-! ### RELEASE, NODE_RESET and the queries (R169, R170, R175, R181, R182) -/

/-- Settles O40: the OK reply is sent, and nothing of the claim is left. -/
theorem releaseExecuted : Obligations.ReleaseExecuted := by
  intro s c m hb hn hp
  have step := State.takeMgmt_new hn (cmd := .release) (by rw [hp]; rfl) (by rw [hp]; rfl) releaseEntry notManager
  refine State.finish_to (step.trans ?_) hb
  rfl

/-- Settles O51: the reply is the reset reply, and the unit is in RESETTING. -/
theorem nodeResetTaken : Obligations.NodeResetTaken := by
  intro s c m hb hn hp t
  have step := State.takeMgmt_new hn (cmd := .nodeReset) (by rw [hp]; rfl) (by rw [hp]; rfl) nodeResetEntry notManager
  refine State.finish_to (step.trans ?_) hb
  rfl

/-- Settles O41: each query answers with the figures of the state in which its cell has been taken. -/
theorem queriesExecuted : Obligations.QueriesExecuted := by
  intro s c m hb
  refine ⟨fun hn hp => ?_, fun offers none_deferred hp source other => ?_, fun i hn hp => ⟨?_, Window.bytes_reads _⟩,
    fun k hn hp => ⟨?_, Mover.bytes_reads _⟩⟩
  · exact ⟨congrArg _ (State.finish_takeMgmt_plain hb hn (cmd := .readStatus) (by rw [hp]; rfl) (by rw [hp]; rfl)
      rfl (.inl rfl) _), State.statusBytes_reads _⟩
  · have low : c.header.source.toNat ≤ 31 := by
      rw [source]
      exact slotByte_le m
    have stranger (k : Slot) (manager : s.mgmt.claim.manager = some k) : c.header.source ≠ slotByte k := by
      rintro is
      exact other (slotByte_inj (source.symm.trans is) ▸ manager)
    refine ⟨State.finish_to ?_ hb, State.statusBytes_reads _⟩
    let taken : State := { s with inbound := s.inbound.taken }
    have executes : readStatusStranger c taken = taken.sendReply c (c.replyWith .ok taken.statusBytes) false :=
      openToAll_executes (s := taken) none_deferred (by rw [hp]; rfl)
    rw [State.takeMgmt_offered offers (by rw [hp]; rfl), State.handleCell_stranger (s := taken) low stranger, executes]
    exact State.sendReply_sentOnly (.inl rfl)
  · have index : windowOf (byteAt c.payload 1) = some i := by
      rw [hp]
      exact windowOf_byteOf i
    refine congrArg _ (State.finish_takeMgmt_plain hb hn (cmd := .windowQuery) (by rw [hp]; rfl) (by rw [hp]; rfl)
      (?_ : windowQueryEntry c (s.executing m) = _) (.inl rfl) notManager)
    simp only [windowQueryEntry, index]
    rfl
  · have names : moverOf (byteAt c.payload 1) = some k := by
      rw [hp]
      exact moverOf_moverByte k
    refine congrArg _ (State.finish_takeMgmt_plain hb hn (cmd := .moverQuery) (by rw [hp]; rfl) (by rw [hp]; rfl)
      (?_ : moverQueryEntry c (s.executing m) = _) (.inl rfl) notManager)
    simp only [moverQueryEntry, names, State.executing_mover]

end Sys2Proof.Machine
end

section
/-! Cells that the Management Unit answers without executing a command, or refuses (R157–R162), and the commands for
windows and for the start of a mover (R74–R76, R22). -/

namespace Sys2Proof.Machine

variable {s t : State} {c : RxCell} {m : Slot} {cmd : Command} {st : Status} {results : List Byte} {entry : Entry}

/-! ### The manager's cell by its sequence (R161) -/

theorem Claim.renew_of_manager {x : Claim} (manager : x.manager = some m) : x.renew = .claimed m := by
  cases x with
  | unclaimed => cases manager
  | claimed k => exact congrArg _ (Option.some.inj manager)
  | lapsed k => exact congrArg _ (Option.some.inj manager)

/-- The cell has left the Receive Queue, and the claim is CLAIMED. -/
theorem State.renewed_eq (manager : s.mgmt.claim.manager = some m) :
    ({ s with inbound := s.inbound.taken, mgmt := { s.mgmt with claim := s.mgmt.claim.renew } } : State) =
      s.executing m := by
  rw [Claim.renew_of_manager manager]
  rfl

/-- The handling of the manager's cell, by what is deferred and stored. -/
theorem State.handleManager_taken (manager : s.mgmt.claim.manager = some m) :
    State.handleManager { s with inbound := s.inbound.taken } c entry =
      State.restartLapse (match s.mgmt.deferred with
        | some d =>
          if c.header.seq = d.seq then s.executing m
          else (s.executing m).sendReply c (c.replyWith .busy []) false
        | none =>
          match s.mgmt.stored with
          | some r =>
            if s.mgmt.lastSeq = some c.header.seq then (s.executing m).sendReply c r false
            else (s.executing m).execute c entry
          | none => (s.executing m).execute c entry) := by
  rw [← State.renewed_eq manager]
  rfl

/-- A new command is executed. -/
theorem State.handleManager_new (hn : s.newCommand c m) :
    State.handleManager { s with inbound := s.inbound.taken } c entry =
      ((s.executing m).execute c entry).restartLapse := by
  obtain ⟨-, manager, -, none_deferred, fresh⟩ := hn
  rw [State.handleManager_taken manager, none_deferred]
  refine congrArg State.restartLapse ?_
  cases stored : s.mgmt.stored with
  | none => rfl
  | some r => exact if_neg (fresh.resolve_left (by rw [stored]; nofun))

theorem State.takeMgmt_execute {k : Option Command} (hn : s.newCommand c m) (named : commandOf c.payload = k)
    (stranger : Stranger) : s.takeMgmt k entry stranger = ((s.executing m).execute c entry).restartLapse := by
  rw [← State.handleManager_new hn]
  obtain ⟨offers, manager, source, -⟩ := hn
  rw [State.takeMgmt_offered offers named]
  exact State.handleCell_manager (s := { s with inbound := s.inbound.taken }) manager source entry stranger

/-- A cell that is answered before its entry is reached. -/
theorem State.executing_answered (s : State) (c : RxCell) (m : Slot) (st : Status) :
    ((s.executing m).conclude c (.reply st [])).restartLapse = s.answered c m st [] := by
  rw [State.conclude_reply _ c m st [] rfl (.inr rfl)]
  rfl

/-- Settles O52, by what is deferred and stored. -/
theorem managerCellsRepeated : Obligations.ManagerCellsRepeated := by
  intro s i k c m hb managed offers named manager source t
  have step {u : State} (handled : State.handleManager { s with inbound := s.inbound.taken } c (entryOf k) = u)
      (between : u.between) : exec i s = .next u := by
    rw [exec_managed managed, State.takeMgmt_offered offers named]
    exact State.finish_to ((State.handleCell_manager (s := { s with inbound := s.inbound.taken }) manager source
      (entryOf k) (strangerOf k)).trans handled) between
  obtain ⟨-, -, -, last, -⟩ := offers
  refine ⟨fun d deferred same => step ?_ hb, fun d deferred other => step ?_ hb,
    fun r none_deferred stored same => step ?_ hb⟩
  · rw [State.handleManager_taken manager, deferred]
    dsimp only
    rw [if_pos same.symm, ← last]
    rfl
  · rw [State.handleManager_taken manager, deferred]
    dsimp only
    rw [if_neg (Ne.symm other)]
    rfl
  · rw [State.handleManager_taken manager, none_deferred, stored]
    dsimp only
    rw [if_pos same]
    rfl

/-! ### Refusals (R157, R160, R162) -/

/-- The operand of a command that names a mover names none. -/
theorem entry_of_no_mover (h : moverOf (byteAt c.payload 1) = none) :
    moverStopEntry c s = (s, .reply .badArgument []) ∧ moverResumeEntry c s = (s, .reply .badArgument [])
      ∧ moverAbortEntry c s = (s, .reply .badArgument []) ∧ moverQueryEntry c s = (s, .reply .badArgument [])
      ∧ moverStartEntry c s = (s, .reply .badArgument []) := by
  simp only [moverStopEntry, moverResumeEntry, moverAbortEntry, moverQueryEntry, moverStartEntry, h, and_self]

/-- The operand of a command that names a window names none. -/
theorem entry_of_no_window (h : windowOf (byteAt c.payload 1) = none) :
    windowOpenEntry c s = (s, .reply .badArgument []) ∧ windowCloseEntry c s = (s, .reply .badArgument [])
      ∧ windowQueryEntry c s = (s, .reply .badArgument []) := by
  simp only [windowOpenEntry, windowCloseEntry, windowQueryEntry, h, and_self]

/-- A command with an operand that names nothing is refused by its entry. -/
theorem entryOf_refuses (h : (cmd = .windowQuery ∧ 15 < (byteAt c.payload 1).toNat)
    ∨ ((cmd = .moverStop ∨ cmd = .moverResume ∨ cmd = .moverAbort ∨ cmd = .moverQuery)
      ∧ 2 ≤ (byteAt c.payload 1).toNat)) : entryOf (some cmd) c s = (s, .reply .badArgument []) := by
  rcases h with ⟨rfl, above⟩ | ⟨named, above⟩
  · exact (entry_of_no_window (windowOf_none above)).2.2
  · obtain ⟨stop, resume, abort, query, -⟩ := entry_of_no_mover (s := s) (moverOf_none above)
    rcases named with rfl | rfl | rfl | rfl
    · exact stop
    · exact resume
    · exact abort
    · exact query

theorem strangerOf_notManager {k : Option Command} (claim : k ≠ some .claim) (status : k ≠ some .readStatus) :
    strangerOf k = notManager := by
  unfold strangerOf
  split
  · exact absurd rfl claim
  · exact absurd rfl status
  · rfl

theorem strangerOf_open {k : Option Command} (h : k = some .claim ∨ k = some .readStatus) :
    ∃ body, strangerOf k = openToAll body := by
  rcases h with rfl | rfl <;> exact ⟨_, rfl⟩

/-- Settles O53, by whose cell it is and what is wrong with it. -/
theorem commandsRefused : Obligations.CommandsRefused := by
  intro s i k c hb managed hand head named gone
  have step {u : State} (taken : s.takeMgmt k (entryOf k) (strangerOf k) = u) (between : u.between) :
      exec i s = .next u := by
    rw [exec_managed managed]
    exact State.finish_to taken between
  refine ⟨fun resetting => step (State.takeMgmt_resetting hand head resetting named _ _) hb,
    fun offers above => step ?_ hb, fun offers low other => ?_, fun m hn unknown => step ?_ hb,
    fun m cmd hn known wrong => step ?_ hb⟩
  · rw [State.takeMgmt_offered offers named]
    exact State.handleCell_discarded (s := gone) above _ _
  · have handled : s.takeMgmt k (entryOf k) (strangerOf k) = strangerOf k c gone := by
      rw [State.takeMgmt_offered offers named]
      exact State.handleCell_stranger (s := gone) low other _ _
    refine ⟨fun claim status => step ?_ hb, fun is_open => ?_⟩
    · rw [handled, strangerOf_notManager claim status]
      exact State.sendReply_sentOnly (.inr rfl)
    · obtain ⟨body, is_open⟩ := strangerOf_open is_open
      have opened : s.takeMgmt k (entryOf k) (strangerOf k) = openToAll body c gone := by rw [handled, is_open]
      refine ⟨fun deferred => step (opened.trans ?_) hb, fun none_deferred length => step (opened.trans ?_) hb⟩
      · obtain ⟨d, deferred⟩ := Option.ne_none_iff_exists'.1 deferred
        simp only [openToAll, show gone.mgmt.deferred = some d from deferred]
        exact State.sendReply_sentOnly (.inr rfl)
      · simp only [openToAll, show gone.mgmt.deferred = none from none_deferred]
        rw [if_pos length]
        exact State.sendReply_sentOnly (.inr rfl)
  · rw [State.takeMgmt_execute hn named, State.execute, named, unknown]
    exact s.executing_answered c m .badCommand
  · rw [State.takeMgmt_execute hn named, State.execute, named, known]
    dsimp only
    by_cases length : c.payload.length = cmd.requestLength
    · rw [if_neg (not_not.2 length), entryOf_refuses (wrong.resolve_left (not_not.2 length))]
      exact s.executing_answered c m .badArgument
    · rw [if_pos length]
      exact s.executing_answered c m .badArgument

end Sys2Proof.Machine
end

section
/-! WINDOW_OPEN and WINDOW_CLOSE (R74–R76, R173, R174), and MOVER_START (R22, R176). -/

namespace Sys2Proof.Machine

variable {s t : State} {c : RxCell} {m : Slot} {k : MoverId} {i : WindowNo} {p : List Byte}

/-! ### WINDOW_OPEN -/

theorem windowOf_of_toNat {b : Byte} (h : b.toNat = i.val) : windowOf b = some i := by
  have low : b.toNat < 16 := h ▸ i.isLt
  rw [windowOf, dif_pos low]
  exact congrArg some (Fin.ext h)

/-- The arguments that R74 and R173 admit, after the index. -/
theorem windowArgsValid_iff : windowArgsValid p = true ↔
    (byteAt p 6).toNat ≤ 18 ∧ (wordAt p 2).toNat % (4096 * 2 ^ (byteAt p 6).toNat) = 0
      ∧ (wordAt p 7).toNat % 4096 = 0
      ∧ (wordAt p 7).toNat + 4096 * 2 ^ (byteAt p 6).toNat ≤ 0x100000000
      ∧ 1 ≤ (byteAt p 11).toNat ∧ (byteAt p 11).toNat ≤ 3 ∧ wordAt p 12 ≠ 0 := by
  simp only [windowArgsValid, Bool.and_eq_true, and_assoc]
  refine and_congr decide_eq_true_iff (and_congr decide_eq_true_iff (and_congr decide_eq_true_iff ?_))
  exact and_congr decide_eq_true_iff
    (and_congr decide_eq_true_iff (and_congr decide_eq_true_iff decide_eq_true_iff))

theorem State.overlaps_iff (w : Window) :
    s.windows.toList.any (fun v => v.active && v.intersects w) = true ↔
      ∃ j : WindowNo, s.windows[j].active = true ∧ s.windows[j].intersects w = true := by
  simp only [List.any_eq_true, Vector.mem_toList_iff, Vector.mem_iff_getElem, Bool.and_eq_true]
  constructor
  · rintro ⟨_, ⟨j, hj, rfl⟩, active, intersects⟩
    exact ⟨⟨j, hj⟩, active, intersects⟩
  · rintro ⟨j, active, intersects⟩
    exact ⟨_, ⟨j.val, j.isLt, rfl⟩, active, intersects⟩

theorem windowOpenEntry_bad_window (h : windowOf (byteAt c.payload 1) = some i)
    (bad : ¬windowArgsValid c.payload = true) : windowOpenEntry c s = (s, .reply .badArgument []) := by
  simp only [windowOpenEntry, h, Bool.not_eq_true] at bad ⊢
  simp only [bad, Bool.not_false, if_true]

theorem windowOpenEntry_busy (h : windowOf (byteAt c.payload 1) = some i) (valid : windowArgsValid c.payload = true)
    (active : s.windows[i].active = true) : windowOpenEntry c s = (s, .reply .wrongState []) := by
  simp only [windowOpenEntry, h, valid, Bool.not_true, Bool.false_eq_true, if_false]
  rw [if_pos active]

theorem windowOpenEntry_overlap (h : windowOf (byteAt c.payload 1) = some i)
    (valid : windowArgsValid c.payload = true) (closed : ¬s.windows[i].active = true)
    (overlaps : s.windows.toList.any (fun v => v.active && v.intersects (windowAsked c.payload)) = true) :
    windowOpenEntry c s = (s, .reply .overlap []) := by
  simp only [windowOpenEntry, h, valid, Bool.not_true, Bool.false_eq_true, if_false, overlaps, if_true]
  rw [if_neg closed]

theorem windowOpenEntry_opens (h : windowOf (byteAt c.payload 1) = some i)
    (valid : windowArgsValid c.payload = true) (closed : ¬s.windows[i].active = true)
    (apart : ¬s.windows.toList.any (fun v => v.active && v.intersects (windowAsked c.payload)) = true) :
    windowOpenEntry c s = (s.setWindow i (windowAsked c.payload), .reply .ok []) := by
  simp only [windowOpenEntry, h, valid, Bool.not_true, Bool.false_eq_true, if_false]
  rw [if_neg closed, if_neg apart]

/-- Settles O44, by the three checks of the entry. -/
theorem windowOpened : Obligations.WindowOpened := by
  intro s c m hb hn length code p index ringBase k cardBase rights mask size bad meets
  have hc : commandOf c.payload = some .windowOpen := commandOf_of_code length code
  have plain {st : Status} (entry : windowOpenEntry c (s.executing m) = (s.executing m, .reply st [])) :
      exec .windowOpen s = .next (s.answered c m st []) :=
    congrArg _ (State.finish_takeMgmt_plain hb hn hc length entry (.inr rfl) notManager)
  have valid_iff : ¬bad ↔ ¬15 < index ∧ windowArgsValid c.payload = true := by
    rw [windowArgsValid_iff]
    simp only [bad, not_or, not_lt, ne_eq, not_not, Nat.one_le_iff_ne_zero]
    rfl
  refine ⟨fun refused => plain ?_, fun i named valid => ?_⟩
  · by_cases above : 15 < index
    · exact (entry_of_no_window (windowOf_none above)).1
    · have invalid : ¬windowArgsValid c.payload = true := fun valid => valid_iff.2 ⟨above, valid⟩ refused
      have low : index < 16 := by omega
      exact windowOpenEntry_bad_window (i := ⟨index, low⟩) (windowOf_of_toNat rfl) invalid
  · obtain ⟨-, valid⟩ := valid_iff.1 valid
    have window := windowOf_of_toNat (b := byteAt c.payload 1) named
    have active (j : WindowNo) : s.windows[j].active = true ↔ s.windows[j].state ≠ .closed := decide_eq_true_iff
    have overlaps : s.windows.toList.any (fun v => v.active && v.intersects (windowAsked c.payload)) = true
        ↔ ∃ j, meets j := by
      rw [State.overlaps_iff]
      refine exists_congr fun j => ?_
      rw [active, Window.intersects, Bool.and_eq_true, decide_eq_true_eq, decide_eq_true_eq]
      rfl
    refine ⟨fun busy => plain (windowOpenEntry_busy (s := s.executing m) window valid ((active i).2 busy)),
      fun closed meeting => plain (windowOpenEntry_overlap (s := s.executing m) window valid ?_ (overlaps.2 meeting)),
      fun closed none_meets => ?_⟩
    · exact fun h => (active i).1 h closed
    · have entry := windowOpenEntry_opens (s := s.executing m) window valid
        (fun h => (active i).1 h closed) (fun h => (not_exists.2 none_meets) (overlaps.1 h))
      have asked : windowAsked c.payload =
          { state := .opened, ringBase := ringBase, sizeExp := k, cardBase := cardBase
            canRead := rights % 2 = 1, canWrite := 2 ≤ rights, mask := mask
            inFlight := 0, accepted := 0, refused := 0 } := by
        have reads : ∀ b : Byte, b.getLsbD 0 = decide (b.toNat % 2 = 1) := by decide
        have writes : ∀ b : Byte, b.toNat ≤ 3 → b.getLsbD 1 = decide (2 ≤ b.toNat) := by decide
        obtain ⟨-, -, -, -, -, le, -⟩ := windowArgsValid_iff.1 valid
        simp only [windowAsked, reads, writes _ le]
        rfl
      rw [asked] at entry
      exact congrArg _ (State.finish_takeMgmt_replies (t := (s.executing m).setWindow i _) hb hn hc length notManager
        entry rfl rfl (.inl rfl))

/-! ### WINDOW_CLOSE -/

theorem windowCloseEntry_eq (h : windowOf (byteAt c.payload 1) = some i) : windowCloseEntry c s =
    match s.windows[i].state with
    | .opened =>
      if s.windows[i].inFlight = 0 then (s.setWindow i { s.windows[i] with state := .closed }, .reply .ok [])
      else (s.setWindow i { s.windows[i] with state := .draining }, .defer (.windowClose i))
    | .closed | .draining => (s, .reply .ok []) := by
  simp only [windowCloseEntry, h] <;> rfl

/-- Settles O45, by the window's state and what it has in flight. -/
theorem windowClosed : Obligations.WindowClosed := by
  intro s c m b hb hn hp
  have hc : commandOf c.payload = some .windowClose := by rw [hp]; rfl
  have hl : c.payload.length = Command.requestLength .windowClose := by rw [hp]; rfl
  have operand : byteAt c.payload 1 = b := by rw [hp]; rfl
  have plain {st : Status} (entry : windowCloseEntry c (s.executing m) = (s.executing m, .reply st [])) :
      exec .windowClose s = .next (s.answered c m st []) :=
    congrArg _ (State.finish_takeMgmt_plain hb hn hc hl entry (.inr rfl) notManager)
  refine ⟨fun above => plain (entry_of_no_window (windowOf_none (by rw [operand]; exact above))).2.1,
    fun i named => ?_⟩
  have entry := windowCloseEntry_eq (s := s.executing m) (c := c) (i := i)
    (by rw [operand, named]; exact windowOf_byteOf i)
  intro w
  refine ⟨fun closed => plain ?_, fun opened idle => ?_, fun opened busy => ?_⟩
  · rw [entry, show (s.executing m).windows[i].state = _ from closed]
  · rw [show (s.executing m).windows[i].state = _ from opened] at entry
    exact congrArg _ (State.finish_takeMgmt_replies (t := (s.executing m).setWindow i _) hb hn hc hl notManager
      (entry.trans (if_pos idle)) rfl rfl (.inl rfl))
  · rw [show (s.executing m).windows[i].state = _ from opened] at entry
    exact State.finish_to (State.takeMgmt_defers (t := (s.executing m).setWindow i _) hn hc hl notManager
      (entry.trans (if_neg busy)) rfl rfl) hb

/-! ### MOVER_START -/

theorem State.setMover_withMgmt (s : State) (k : MoverId) (v : Mover) (g : Mgmt) :
    ({ s.setMover k v with mgmt := g } : State) = State.setMover { s with mgmt := g } k v := by
  cases k <;> rfl

theorem moverStartEntry_eq (h : moverOf (byteAt c.payload 1) = some k) : moverStartEntry c s =
    if (wordAt c.payload 2).toNat % 8 ≠ 0 then (s, .reply .badArgument [])
    else if (s.mover k).state ≠ .idle then (s, .reply .wrongState [])
    else
      ((s.setMover k
        { s.mover k with
          state := .fetching, current := .address (wordAt c.payload 2), fault := none, resume := none
          completed := 0 }).requestFetch k (wordAt c.payload 2), .reply .ok []) := by
  simp only [moverStartEntry, h]

/-- Settles O46: the request is taken up at the end of the step when no fetch is in flight. -/
theorem moverStarted : Obligations.MoverStarted := by
  intro s c m hb hn length code a
  have hc : commandOf c.payload = some .moverStart := commandOf_of_code length code
  have plain {st : Status} (entry : moverStartEntry c (s.executing m) = (s.executing m, .reply st [])) :
      exec .moverStart s = .next (s.answered c m st []) :=
    congrArg _ (State.finish_takeMgmt_plain hb hn hc length entry (.inr rfl) notManager)
  refine ⟨fun bad => plain ?_, fun k named aligned => ?_⟩
  · cases names : moverOf (byteAt c.payload 1) with
    | none =>
      obtain ⟨-, -, -, -, start⟩ := entry_of_no_mover (s := s.executing m) names
      exact start
    | some k =>
      have misaligned := bad.resolve_left fun above => by
        rw [moverOf_none above] at names
        cases names
      rw [moverStartEntry_eq names, if_pos misaligned]
  · have entry := moverStartEntry_eq (s := s.executing m) (c := c) (k := k) (by rw [named, moverOf_moverByte])
    rw [if_neg (not_not.2 aligned), State.executing_mover] at entry
    refine ⟨fun busy => plain (entry.trans (if_pos busy)), fun idle => ?_⟩
    rw [if_neg (not_not.2 idle), State.requestFetch_setMover] at entry
    have step := State.takeMgmt_replies hn hc length notManager entry (State.setMover_mgmt ..) (State.setMover_now ..)
      (.inl rfl)
    rw [State.setMover_withMgmt] at step
    refine congrArg Host.Outcome.next ((congrArg State.finish step).trans ?_)
    rw [← Fetcher.start_setWaiting s.fetcher k a hb.2]
    exact State.finish_fetching (s := s.answered c m .ok []) hb.1 (s.fetcher.setWaiting k (some a)) k _

end Sys2Proof.Machine
end

section
/-! MOVER_STOP and MOVER_RESUME (R31–R35, R177, R178). -/

namespace Sys2Proof.Machine

variable {s t : State} {c : RxCell} {m : Slot} {k : MoverId} {f : Fetch} {g : Fetcher} {v : Mover} {e : Element}
  {cmd : Command} {entry : Entry}

/-! ### The withdrawal of a fetch (R14) -/

theorem Fetcher.setWaiting_none (h : g.waiting k = none) : g.setWaiting k none = g := by
  cases k
  · exact congrArg (fun w => { g with waiting0 := w }) h.symm
  · exact congrArg (fun w => { g with waiting1 := w }) h.symm

theorem Fetcher.setWaiting_inFlight (g : Fetcher) (k : MoverId) (a : Option Addr) :
    (g.setWaiting k a).inFlight = g.inFlight := by
  cases k <;> rfl

theorem Fetcher.withdraw_own (flying : g.inFlight = some f) (own : f.mover = k) (idle : g.waiting k = none) :
    g.withdraw k = { g with inFlight := some { f with discarded := true } } := by
  simp only [Fetcher.withdraw, Fetcher.setWaiting_none idle, flying, Option.map_some, own, if_true]

theorem Fetcher.withdraw_other (other : ∀ f, g.inFlight = some f → f.mover ≠ k) :
    g.withdraw k = g.setWaiting k none := by
  have kept : g.inFlight.map (fun x => if x.mover = k then { x with discarded := true } else x) = g.inFlight := by
    cases h : g.inFlight with
    | none => rfl
    | some f => simp only [Option.map_some, if_neg (other f h)]
  have flying := g.setWaiting_inFlight k none
  rw [Fetcher.withdraw]
  simp only [flying, kept]
  exact congrArg (fun x => ({ g.setWaiting k none with inFlight := x } : Fetcher)) flying.symm

theorem Fetcher.waiting_setWaiting (g : Fetcher) (k : MoverId) (a : Option Addr) :
    (g.setWaiting k a).waiting k = a := by
  cases k <;> rfl

theorem Fetcher.owns_withdraw_other (other : ∀ f, g.inFlight = some f → f.mover ≠ k) :
    (g.withdraw k).owns k = false := by
  rw [Fetcher.withdraw_other other, Fetcher.owns_eq_false, Fetcher.setWaiting_inFlight]
  exact ⟨g.waiting_setWaiting k none, fun f hf => other f hf⟩

theorem State.fetcher_withdraw_start (hb : s.between) (k : MoverId) :
    (s.fetcher.withdraw k).start = s.fetcher.withdraw k :=
  Fetcher.start_withdraw _ _ (State.fetcher_start hb)

/-! ### A new command that changes a mover and the fetcher -/

/-- The fetch that waits starts at the end of the step (R12). -/
theorem State.finish_takeMgmt_fetching (hb : s.between) (hn : s.newCommand c m)
    (hc : commandOf c.payload = some cmd) (hl : c.payload.length = cmd.requestLength) (stranger : Stranger)
    (he : entry c (s.executing m) = (State.setMover { s.executing m with fetcher := g } k v, .reply .ok [])) :
    (s.takeMgmt (some cmd) entry stranger).finish =
      State.setMover { s.answered c m .ok [] with fetcher := g.start } k v := by
  rw [State.takeMgmt_replies hn hc hl stranger he (State.setMover_mgmt ..) (State.setMover_now ..) (.inl rfl),
    State.setMover_withMgmt]
  exact State.finish_fetching (s := s.answered c m .ok []) hb.1 g k v

theorem State.finish_takeMgmt_fetching_raise (hb : s.between) (hn : s.newCommand c m)
    (hc : commandOf c.payload = some cmd) (hl : c.payload.length = cmd.requestLength) (stranger : Stranger)
    {x : Event} (he : entry c (s.executing m) =
      ((State.setMover { s.executing m with fetcher := g } k v).raise x, .reply .ok [])) :
    (s.takeMgmt (some cmd) entry stranger).finish =
      (State.setMover { s.answered c m .ok [] with fetcher := g.start } k v).takeOccurrence x := by
  rw [State.takeMgmt_replies hn hc hl stranger he
    (show ((State.setMover { s.executing m with fetcher := g } k v).raise x).mgmt = _ from State.setMover_mgmt ..)
    (show ((State.setMover { s.executing m with fetcher := g } k v).raise x).now = _ from State.setMover_now ..)
    (.inl rfl)]
  have moved : ({ (State.setMover { s.executing m with fetcher := g } k v).raise x with
      mgmt := (s.answered c m .ok []).mgmt } : State) =
      (State.setMover { s.answered c m .ok [] with fetcher := g } k v).raise x := by
    cases k <;> rfl
  rw [moved]
  exact State.finish_fetching_raise (s := s.answered c m .ok []) hb.1 g k v x

/-! ### MOVER_STOP -/

theorem moverStopEntry_stops (names : moverOf (byteAt c.payload 1) = some k) (stops : s.stopMover k = some t) :
    moverStopEntry c s = (t, .reply .ok []) := by
  simp only [moverStopEntry, names, stops]

theorem moverStopEntry_refused (names : moverOf (byteAt c.payload 1) = some k) (stops : s.stopMover k = none) :
    moverStopEntry c s = (s, .reply .wrongState []) := by
  simp only [moverStopEntry, names, stops]

theorem State.discardLookAhead_kept (s : State) (k : MoverId) (h : (s.mover k).lookAhead ≠ .pending) :
    s.discardLookAhead k = s.setMover k { s.mover k with lookAhead := .none } := by
  unfold State.discardLookAhead
  dsimp only
  split
  · next pending => exact absurd pending h
  · rfl

theorem State.discardLookAhead_pending (s : State) (k : MoverId) (h : (s.mover k).lookAhead = .pending) :
    s.discardLookAhead k = State.setMover { s with fetcher := s.fetcher.withdraw k } k
      { s.mover k with lookAhead := .none } := by
  simp only [State.discardLookAhead, h]
  cases k <;> rfl

/-- The mover stops with cause ELEMENT, its look-ahead discarded (R18, R33). -/
theorem State.stopMover_moving (moving : (s.mover k).state = .moving) (h : (s.mover k).lookAhead ≠ .pending) :
    s.stopMover k = some (s.setMover k { s.mover k with state := .stopping .element, lookAhead := .none }) := by
  simp only [State.stopMover, moving]
  rw [State.discardLookAhead_kept _ _ (by rw [State.mover_setMover_same]; exact h), State.mover_setMover_same,
    State.setMover_setMover]

theorem State.stopMover_pending (moving : (s.mover k).state = .moving) (h : (s.mover k).lookAhead = .pending) :
    s.stopMover k = some (State.setMover { s with fetcher := s.fetcher.withdraw k } k
      { s.mover k with state := .stopping .element, lookAhead := .none }) := by
  simp only [State.stopMover, moving]
  rw [State.discardLookAhead_pending _ _ (by rw [State.mover_setMover_same]; exact h), State.mover_setMover_same]
  cases k <;> rfl

/-- The mover stops with cause FETCH, or at once when its fetch is still waiting (R34, R35). -/
theorem State.stopMover_fetching (fetching : (s.mover k).state = .fetching) : s.stopMover k =
    if (s.fetcher.withdraw k).owns k then
      some (State.setMover { s with fetcher := s.fetcher.withdraw k } k { s.mover k with state := .stopping .fetch })
    else some ((State.setMover { s with fetcher := s.fetcher.withdraw k } k
      ((s.mover k).ended .idle (some (s.mover k).currentAddr))).raise (.moverDone k)) := by
  simp only [State.stopMover, fetching]
  cases k <;> rfl

theorem State.stopMover_gated (gated : (s.mover k).state = .gated) : s.stopMover k =
    some ((s.setMover k ((s.mover k).ended .idle (some (s.mover k).currentAddr))).raise (.moverDone k)) := by
  simp only [State.stopMover, gated, State.endList, Mover.rest]

/-- Settles O47, by the state of the mover and whose fetch is in flight. -/
theorem moverStopped : Obligations.MoverStopped := by
  intro s c m k hb hn hp v done idle
  have hc : commandOf c.payload = some .moverStop := by rw [hp]; rfl
  have hl : c.payload.length = Command.requestLength .moverStop := by rw [hp]; rfl
  have names : moverOf (byteAt c.payload 1) = some k := by rw [hp]; exact moverOf_moverByte k
  have mover : (s.executing m).mover k = v := State.executing_mover ..
  have started := State.fetcher_withdraw_start hb k
  have fetches {g : Fetcher} {w : Mover} (withdrawn : s.fetcher.withdraw k = g)
      (stops : (s.executing m).stopMover k =
        some (State.setMover { s.executing m with fetcher := s.fetcher.withdraw k } k w)) :
      exec .moverStop s = .next (State.setMover { done with fetcher := g } k w) := by
    rw [← withdrawn, ← started]
    exact congrArg _ (State.finish_takeMgmt_fetching hb hn hc hl notManager (moverStopEntry_stops names stops))
  refine ⟨fun moving kept => ?_, fun f moving pending flying own waiting => ?_,
    fun f moving pending flying other => ?_, fun f a fetching current flying other => ?_,
    fun f fetching flying own waiting => ?_, fun e gated current => ?_, fun cause stopping => ?_, fun wrong => ?_⟩
  · have stops := State.stopMover_moving (s := s.executing m) (k := k) (by rw [mover]; exact moving)
      (by rw [mover]; exact kept)
    rw [mover] at stops
    exact congrArg _ (State.finish_takeMgmt_setMover hb hn hc hl (moverStopEntry_stops names stops) (.inl rfl)
      notManager)
  · have stops := State.stopMover_pending (s := s.executing m) (k := k) (by rw [mover]; exact moving)
      (by rw [mover]; exact pending)
    rw [mover] at stops
    exact fetches (Fetcher.withdraw_own flying own waiting) stops
  · have stops := State.stopMover_pending (s := s.executing m) (k := k) (by rw [mover]; exact moving)
      (by rw [mover]; exact pending)
    rw [mover] at stops
    exact fetches (Fetcher.withdraw_other fun x hx => by cases flying.symm.trans hx; exact other) stops
  · have others : ∀ x, s.fetcher.inFlight = some x → x.mover ≠ k := fun x hx => by
      cases flying.symm.trans hx
      exact other
    have stops := State.stopMover_fetching (s := s.executing m) (k := k) (by rw [mover]; exact fetching)
    rw [if_neg (by rw [show (s.executing m).fetcher = s.fetcher from rfl, Fetcher.owns_withdraw_other others]; decide),
      mover, Mover.currentAddr_of (.inl current)] at stops
    rw [← Fetcher.withdraw_other others, ← started]
    exact congrArg _ (State.finish_takeMgmt_fetching_raise hb hn hc hl notManager (moverStopEntry_stops names stops))
  · have withdrawn := Fetcher.withdraw_own flying own waiting
    have owned : (s.fetcher.withdraw k).owns k = true := by
      rw [withdrawn, Fetcher.owns, Bool.or_eq_true]
      exact .inr (decide_eq_true own)
    have stops := State.stopMover_fetching (s := s.executing m) (k := k) (by rw [mover]; exact fetching)
    rw [if_pos (show ((s.executing m).fetcher.withdraw k).owns k = true from owned), mover] at stops
    exact fetches withdrawn stops
  · have stops := State.stopMover_gated (s := s.executing m) (k := k) (by rw [mover]; exact gated)
    rw [mover, Mover.currentAddr_element current] at stops
    have step := State.finish_takeMgmt_fetching_raise (g := s.fetcher) hb hn hc hl notManager
      (moverStopEntry_stops names stops)
    rw [State.fetcher_start hb] at step
    exact congrArg _ step
  · have stops : (s.executing m).stopMover k = some (s.executing m) := by
      simp only [State.stopMover, mover, show v.state = _ from stopping]
    exact congrArg _ (State.finish_takeMgmt_plain hb hn hc hl (moverStopEntry_stops names stops) (.inr rfl) notManager)
  · have stops : (s.executing m).stopMover k = none := by
      rcases wrong with h | h | h <;> simp only [State.stopMover, mover, show v.state = _ from h]
    exact congrArg _ (State.finish_takeMgmt_plain hb hn hc hl (moverStopEntry_refused names stops) (.inr rfl)
      notManager)

end Sys2Proof.Machine
end

section
/-! MOVER_RESUME (R31, R178) and MOVER_ABORT (R43, R179). -/

namespace Sys2Proof.Machine

variable {s t u : State} {c : RxCell} {m : Slot} {k : MoverId} {f : Fetch} {g : Fetcher} {v : Mover} {e : Element}
  {a : Addr} {cmd : Command} {entry : Entry}

/-! ### MOVER_RESUME -/

/-- The gate is passed, and the next element is requested (R17, R31). -/
theorem State.completeElement_requests (lookAhead : (s.mover k).lookAhead = .none) (goes_on : e.stopAfter = false)
    (next : e.next = some a) : s.completeElement k e =
      (let passed := State.setMover { s with fetcher := s.fetcher.setWaiting k (some a) } k
        { s.mover k with
          state := .fetching, current := .address a, nextPiece := none, issued := 0, settled := 0
          completed := (s.mover k).completed + 1 }
      if e.notify then passed.raise (.moverNotify k) else passed) := by
  have chains : e.chainsTo = some a := by simp [Element.chainsTo, goes_on, next]
  have counted : ((s.countElement k e).mover k) = { s.mover k with completed := (s.mover k).completed + 1 } := by
    unfold State.countElement
    dsimp only
    split
    · rw [State.raise_mover, State.mover_setMover_same]
    · rw [State.mover_setMover_same]
  have chained : (s.countElement k e).chain k a =
      State.enterFetching ((s.countElement k e).requestFetch k a) k a := by
    simp only [State.chain, counted, lookAhead]
    have same : (s.countElement k e).setMover k
        { s.mover k with completed := (s.mover k).completed + 1, lookAhead := .none } = s.countElement k e := by
      rw [← lookAhead]
      exact (congrArg ((s.countElement k e).setMover k) counted.symm).trans (by cases k <;> rfl)
    rw [same]
  simp only [State.completeElement, chains, chained, State.enterFetching, State.requestFetch_mover, counted]
  unfold State.countElement
  dsimp only
  split <;> cases k <;> rfl

theorem moverResumeEntry_passes (names : moverOf (byteAt c.payload 1) = some k) (gated : (s.mover k).state = .gated)
    (current : (s.mover k).current = .element e) :
    moverResumeEntry c s = (s.completeElement k e, .reply .ok []) := by
  simp only [moverResumeEntry, names, gated, current]

theorem moverResumeEntry_refused (names : moverOf (byteAt c.payload 1) = some k)
    (other : (s.mover k).state ≠ .gated) : moverResumeEntry c s = (s, .reply .wrongState []) := by
  simp only [moverResumeEntry, names]
  split
  · next gated _ => exact absurd gated other
  · rfl

theorem State.completeElement_ends (h : e.stopAfter = true ∨ e.next = none) :
    s.completeElement k e = (s.countElement k e).endList k e.next := by
  have chains : e.chainsTo = none := by rcases h with h | h <;> simp [Element.chainsTo, h]
  simp only [State.completeElement, chains]

theorem State.endList_withMgmt (s : State) (k : MoverId) (e : Element) (r : Option Addr) (g : Mgmt) :
    ({ (s.countElement k e).endList k r with mgmt := g } : State) =
      (State.countElement { s with mgmt := g } k e).endList k r := by
  unfold State.countElement
  dsimp only
  cases e.notify <;> cases k <;> rfl

theorem State.endList_kept (s : State) (k : MoverId) (e : Element) (r : Option Addr) :
    ((s.countElement k e).endList k r).mgmt = s.mgmt ∧ ((s.countElement k e).endList k r).now = s.now := by
  unfold State.countElement
  dsimp only
  cases e.notify <;> cases k <;> exact ⟨rfl, rfl⟩

/-- Settles O48: the gate completes, and its element chains or ends the list. -/
theorem gatePassed : Obligations.GatePassed := by
  intro s c m k hb hn hp v done notified
  have hc : commandOf c.payload = some .moverResume := by rw [hp]; rfl
  have hl : c.payload.length = Command.requestLength .moverResume := by rw [hp]; rfl
  have names : moverOf (byteAt c.payload 1) = some k := by rw [hp]; exact moverOf_moverByte k
  have mover : (s.executing m).mover k = v := State.executing_mover ..
  refine ⟨fun e a gated current lookAhead goes_on next => ?_, fun e gated current ends => ?_, fun other => ?_⟩
  · have entry := moverResumeEntry_passes (s := s.executing m) names (by rw [mover]; exact gated)
      (by rw [mover]; exact current)
    rw [State.completeElement_requests (by rw [mover]; exact lookAhead) goes_on next, mover] at entry
    have requested := Fetcher.start_setWaiting s.fetcher k a hb.2
    refine congrArg Host.Outcome.next (?_ : State.finish _ = notified e _)
    rw [← requested]
    cases notify : e.notify with
    | false =>
      simp only [notify, Bool.false_eq_true, if_false] at entry
      rw [show notified e = fun t => t from funext fun t => by simp only [notified, notify, Bool.false_eq_true, if_false]]
      exact State.finish_takeMgmt_fetching hb hn hc hl notManager entry
    | true =>
      simp only [notify, if_true] at entry
      rw [show notified e = fun t => t.takeOccurrence (.moverNotify k) from
        funext fun t => by simp only [notified, notify, if_true]]
      exact State.finish_takeMgmt_fetching_raise hb hn hc hl notManager entry
  · have entry := moverResumeEntry_passes (s := s.executing m) names (by rw [mover]; exact gated)
      (by rw [mover]; exact current)
    rw [State.completeElement_ends ends] at entry
    obtain ⟨mgmt, now⟩ := (s.executing m).endList_kept k e e.next
    have step := State.takeMgmt_replies hn hc hl notManager entry mgmt now (.inl rfl)
    rw [State.endList_withMgmt] at step
    have ended := State.endList_finish done _ k e e.next rfl hb
    exact congrArg Host.Outcome.next ((congrArg State.finish step).trans ended)
  · have entry := moverResumeEntry_refused (s := s.executing m) names (by rw [mover]; exact other)
    exact congrArg _ (State.finish_takeMgmt_plain hb hn hc hl entry (.inr rfl) notManager)

end Sys2Proof.Machine
end

section
/-! MOVER_ABORT (R43, R179). -/

namespace Sys2Proof.Machine

variable {s t u : State} {c : RxCell} {m : Slot} {k : MoverId} {f : Fetch} {v : Mover}

/-! ### A withdrawal with nothing but a fetch to withdraw (R14, R38) -/

/-- The mover has nothing but, at most, its fetch. -/
def State.bare (s : State) (k : MoverId) : Prop :=
  (s.mover k).queue = [] ∧ (s.mover k).pendingWrites = 0 ∧ (s.mover k).lookAhead = .none ∧ s.tagsOwned k = 0
    ∧ s.holdsBuffer k = false ∧ (∀ q ∈ s.requestQueue, q.mover ≠ k)
    ∧ (s.requestQueue = [] → s.replyQueue = [] → s.ring.passCounter = 0)

theorem State.withdrawCells_none (none_queued : ∀ q ∈ s.requestQueue, q.mover ≠ k)
    (counter : s.requestQueue = [] → s.replyQueue = [] → s.ring.passCounter = 0) : s.withdrawCells k = s := by
  have mine : s.requestQueue.filter (fun c => decide (c.mover = k)) = [] :=
    List.filter_eq_nil_iff.2 fun q hq => by simpa only [decide_eq_true_eq] using none_queued q hq
  have others : s.requestQueue.filter (fun c => decide (c.mover ≠ k)) = s.requestQueue :=
    List.filter_eq_self.2 fun q hq => decide_eq_true (none_queued q hq)
  simp only [State.withdrawCells, mine, others, List.foldl_nil, State.passCounterRule]
  split
  · next idle => rw [← counter idle.1 idle.2]
  · rfl

theorem State.withdrawMemory_none (empty : (s.mover k).queue = []) : s.withdrawMemory k = s := by
  have same : s.setMover k { s.mover k with queue := [] } = s := by
    rw [← empty]
    cases k <;> rfl
  simp only [State.withdrawMemory, empty, List.filterMap_nil, List.foldl_nil, List.map_nil, same, State.giveUpFilled]

theorem State.abandonTags_none (none_owned : s.tagsOwned k = 0) : s.abandonTags k = s := by
  have kept : s.tags.map (Tag.abandon k) = s.tags := by
    ext i hi
    have unowned : s.tags[i].owner ≠ some k := by
      have all := List.countP_eq_zero.1 none_owned s.tags[i] (Vector.mem_toList_iff.2 (Vector.getElem_mem hi))
      simpa only [decide_eq_true_eq] using all
    rw [Vector.getElem_map]
    cases h : s.tags[i] with
    | waiting i d =>
      rw [h] at unowned
      exact if_neg fun own => unowned (congrArg some own)
    | free | abandoned | quarantined => rfl
  rw [State.abandonTags, kept]

theorem State.discardLookAhead_none (none_held : (s.mover k).lookAhead = .none) : s.discardLookAhead k = s := by
  rw [State.discardLookAhead_kept s k (by rw [none_held]; nofun), ← none_held]
  cases k <;> rfl

theorem State.withdraw_bare (bare : s.bare k) : s.withdraw k = s.withdrawFetch k := by
  obtain ⟨queue, -, lookAhead, tags, -, cells, counter⟩ := bare
  rw [State.withdraw, State.withdrawCells_none cells counter, State.withdrawMemory_none queue, State.abandonTags_none tags, State.discardLookAhead_none lookAhead]

/-! ### Quiet, and the mover's record -/

/-- The test for quiet reads the mover's memory queue and its pending writes, and nothing else of its record. -/
theorem State.quiet_setMover (queue : v.queue = (s.mover k).queue)
    (writes : v.pendingWrites = (s.mover k).pendingWrites) : (s.setMover k v).quiet k = s.quiet k := by
  have same : (s.setMover k v).mover k = v := State.mover_setMover_same ..
  unfold State.quiet State.tagsOwned State.holdsBuffer
  rw [same, queue, writes, State.setMover_tags, State.setMover_requestQueue, State.setMover_pool,
    State.setMover_fetcher]

/-- A bare mover is quiet when it has no fetch. -/
theorem State.quiet_withdrawFetch (bare : s.bare k) :
    (s.withdrawFetch k).quiet k = !(s.fetcher.withdraw k).owns k := by
  obtain ⟨queue, writes, -, tags, buffers, cells, -⟩ := bare
  have others : s.requestQueue.all (fun c => decide (c.mover ≠ k)) = true :=
    List.all_eq_true.2 fun q hq => decide_eq_true (cells q hq)
  have same : (s.withdrawFetch k).mover k = s.mover k := State.withdrawFetch_mover ..
  unfold State.quiet
  rw [same, queue, writes, show (s.withdrawFetch k).tagsOwned k = 0 from tags,
    show (s.withdrawFetch k).holdsBuffer k = false from buffers,
    show (s.withdrawFetch k).requestQueue.all (fun c => decide (c.mover ≠ k)) = true from others]
  rfl

/-! ### The entry -/

theorem moverAbortEntry_idle (names : moverOf (byteAt c.payload 1) = some k) (idle : (s.mover k).state = .idle) :
    moverAbortEntry c s = (s, .reply .ok []) := by
  simp only [moverAbortEntry, names, idle]

theorem moverAbortEntry_halted (names : moverOf (byteAt c.payload 1) = some k) (halted : (s.mover k).state = .halted) :
    moverAbortEntry c s = (s.setMover k { s.mover k with state := .idle }, .reply .ok []) := by
  simp only [moverAbortEntry, names, halted]

theorem moverAbortEntry_aborts (names : moverOf (byteAt c.payload 1) = some k) (idle : (s.mover k).state ≠ .idle)
    (halted : (s.mover k).state ≠ .halted) : moverAbortEntry c s = s.abortMover k := by
  simp only [moverAbortEntry, names]
  split <;> first | rfl | contradiction

/-- The state in which the mover has withdrawn, unless FAULTING has done it. -/
def State.withdrawnOnce (s : State) (k : MoverId) : State :=
  if (s.mover k).state = .faulting then s else s.withdraw k

theorem State.abortMover_eq (s : State) (k : MoverId) : s.abortMover k =
    if (s.withdrawnOnce k).quiet k then
      ((s.withdrawnOnce k).setMover k (((s.withdrawnOnce k).mover k).ended .idle none), .reply .ok [])
    else
      ((s.withdrawnOnce k).setMover k { (s.withdrawnOnce k).mover k with state := .aborting, resume := none },
        .defer (.moverAbort k)) := by
  have quiet : ((s.withdrawnOnce k).setMover k
      { (s.withdrawnOnce k).mover k with state := .aborting, resume := none }).quiet k = (s.withdrawnOnce k).quiet k :=
    State.quiet_setMover rfl rfl
  unfold State.abortMover
  dsimp only
  rw [show (if (s.mover k).state = .faulting then s else s.withdraw k) = s.withdrawnOnce k from rfl, quiet,
    State.mover_setMover_same, State.setMover_setMover]
  rfl

/-! ### What a withdrawal keeps -/

theorem State.withdrawnOnce_givesUp (s : State) (k : MoverId) : GivesUp s (s.withdrawnOnce k) := by
  unfold State.withdrawnOnce
  split
  · exact .refl s
  · exact .withdraw s k

theorem State.withdrawnOnce_fetcher (hb : s.between) (k : MoverId) :
    (s.withdrawnOnce k).fetcher.start = (s.withdrawnOnce k).fetcher := by
  unfold State.withdrawnOnce
  split
  · exact State.fetcher_start hb
  · obtain ⟨-, -, -, -, -, fetcher, -⟩ := s.withdraw_withdrawn k
    have withdrawn : (s.withdraw k).fetcher = s.fetcher.withdraw k := by
      rw [fetcher]
      cases k <;> rfl
    rw [withdrawn]
    exact State.fetcher_withdraw_start hb k

theorem GivesUp.kept (h : GivesUp s t) : t.mgmt = s.mgmt ∧ t.now = s.now ∧ t.raised = s.raised := by
  obtain ⟨⟨_, _, _, _, _, _, _, rfl⟩, -⟩ := h
  exact ⟨rfl, rfl, rfl⟩

/-- A withdrawal stays one when the mover's record changes in what it does not speak of. -/
theorem State.withdrawn_setMover (h : s.withdrawn t k) (queue : v.queue = (t.mover k).queue)
    (lookAhead : v.lookAhead = (t.mover k).lookAhead) (g : Mgmt) :
    s.withdrawn { t.setMover k v with mgmt := g } k := by
  have same : State.mover { t.setMover k v with mgmt := g } k = v := by cases k <;> rfl
  obtain ⟨cells, tags, buffers, left, slot, fetch, counter, others⟩ := h
  refine ⟨?_, ?_, ?_, ?_, ?_, ?_, ?_, fun n hn => ?_⟩
  · cases k <;> exact cells
  · cases k <;> exact tags
  · cases k <;> exact buffers
  · rw [same, queue]
    exact left
  · rw [same, lookAhead]
    exact slot
  · cases k <;> exact fetch
  · cases k <;> exact counter
  · have other := others n hn
    cases k <;> cases n <;> first | exact absurd rfl hn | exact other

/-- The test for quiet does not read the Management Unit. -/
theorem State.isQuiet_withMgmt (g : Mgmt) : State.isQuiet { t with mgmt := g } k ↔ t.isQuiet k := by
  cases k <;> exact Iff.rfl

/-! ### The abort of a mover that carries out a list -/

/-- A step that has raised nothing and leaves no fetch to start. -/
theorem State.finish_settled (raised : t.raised = []) (started : t.fetcher.start = t.fetcher) : t.finish = t := by
  rw [State.finish_raisedNone t raised, State.atEnd, started, ← raised]

section Aborts

variable (hb : s.between) (hn : s.newCommand c m) (hp : c.payload = [0x0C, moverByte k])
  (idle : (s.mover k).state ≠ .idle) (halted : (s.mover k).state ≠ .halted)

include hb hn hp idle halted

/-- A mover that is quiet once it has withdrawn goes to IDLE, and one that is not to ABORTING. -/
theorem exec_moverAbort_withdraws :
    (((s.executing m).withdrawnOnce k).quiet k = true → exec .moverAbort s = .next
      { ((s.executing m).withdrawnOnce k).setMover k
          ((((s.executing m).withdrawnOnce k).mover k).ended .idle none) with
        mgmt := (s.answered c m .ok []).mgmt })
    ∧ (((s.executing m).withdrawnOnce k).quiet k ≠ true → exec .moverAbort s = .next
      { ((s.executing m).withdrawnOnce k).setMover k
          { ((s.executing m).withdrawnOnce k).mover k with state := .aborting, resume := none } with
        mgmt := (s.deferredBy c m (.moverAbort k)).mgmt }) := by
  have hc : commandOf c.payload = some .moverAbort := by rw [hp]; rfl
  have hl : c.payload.length = Command.requestLength .moverAbort := by rw [hp]; rfl
  have names : moverOf (byteAt c.payload 1) = some k := by rw [hp]; exact moverOf_moverByte k
  have mover : (s.executing m).mover k = s.mover k := State.executing_mover ..
  have entry := (moverAbortEntry_aborts (s := s.executing m) names (by rw [mover]; exact idle)
    (by rw [mover]; exact halted)).trans (State.abortMover_eq _ _)
  obtain ⟨mgmt, now, raised⟩ := (State.withdrawnOnce_givesUp (s.executing m) k).kept
  have started := State.withdrawnOnce_fetcher (s := s.executing m) hb k
  have settled (v : Mover) (g : Mgmt) :
      State.finish { ((s.executing m).withdrawnOnce k).setMover k v with mgmt := g } =
        { ((s.executing m).withdrawnOnce k).setMover k v with mgmt := g } := by
    refine State.finish_settled ((State.setMover_raised ..).trans (raised.trans hb.1)) ?_
    rw [show State.fetcher { ((s.executing m).withdrawnOnce k).setMover k v with mgmt := g } = _ from
      State.setMover_fetcher ..]
    exact started
  refine ⟨fun quiet => ?_, fun busy => ?_⟩
  · rw [if_pos quiet] at entry
    have step := State.takeMgmt_replies hn hc hl notManager entry ((State.setMover_mgmt ..).trans mgmt)
      ((State.setMover_now ..).trans now) (.inl rfl)
    exact congrArg Host.Outcome.next ((congrArg State.finish step).trans (settled _ _))
  · rw [if_neg busy] at entry
    have step := State.takeMgmt_defers hn hc hl notManager entry ((State.setMover_mgmt ..).trans mgmt)
      ((State.setMover_now ..).trans now)
    exact congrArg Host.Outcome.next ((congrArg State.finish step).trans (settled _ _))

end Aborts

/-- What the steps of both ends of an abort have in common: the mover has withdrawn, and its record is `v`. -/
theorem State.withdrawnOnce_ends (s : State) (m : Slot) (k : MoverId) (v : Mover) (g : Mgmt)
    (queue : v.queue = (((s.executing m).withdrawnOnce k).mover k).queue)
    (lookAhead : v.lookAhead = (((s.executing m).withdrawnOnce k).mover k).lookAhead)
    (writes : v.pendingWrites = (((s.executing m).withdrawnOnce k).mover k).pendingWrites) :
    let u : State := { ((s.executing m).withdrawnOnce k).setMover k v with mgmt := g }
    u.mover k = v ∧ (u.isQuiet k ↔ ((s.executing m).withdrawnOnce k).quiet k = true)
      ∧ State.actsOnMovers { s with inbound := s.inbound.taken, mgmt := u.mgmt } u ∧ u.events = s.events
      ∧ ((s.mover k).state ≠ .faulting → s.withdrawn u k) := by
  intro u
  have mover : (s.executing m).mover k = s.mover k := State.executing_mover ..
  refine ⟨by cases k <;> rfl, ?_, ?_, ?_, fun not_faulting => ?_⟩
  · rw [State.isQuiet_withMgmt, ← State.quiet_iff, State.quiet_setMover queue writes]
  · obtain ⟨⟨_, _, _, _, _, _, _, frame⟩, -⟩ := State.withdrawnOnce_givesUp (s.executing m) k
    simp only [u, frame]
    cases k <;> rfl
  · obtain ⟨⟨_, _, _, _, _, _, _, frame⟩, -⟩ := State.withdrawnOnce_givesUp (s.executing m) k
    simp only [u, frame]
    cases k <;> rfl
  · have once : (s.executing m).withdrawnOnce k = (s.executing m).withdraw k :=
      if_neg (by rw [mover]; exact not_faulting)
    have withdrawn := State.withdrawn_setMover ((s.executing m).withdraw_withdrawn k) (v := v)
      (by rw [queue, once]) (by rw [lookAhead, once]) g
    rw [← once] at withdrawn
    exact withdrawn

/-- Settles O49, by the mover's state, what it has, and whether it is quiet once it has withdrawn. -/
theorem moverAborted : Obligations.MoverAborted := by
  intro s c m k hb hn hp v done bare
  have hc : commandOf c.payload = some .moverAbort := by rw [hp]; rfl
  have hl : c.payload.length = Command.requestLength .moverAbort := by rw [hp]; rfl
  have names : moverOf (byteAt c.payload 1) = some k := by rw [hp]; exact moverOf_moverByte k
  have mover : (s.executing m).mover k = v := State.executing_mover ..
  have withdraws (state : v.state = .gated ∨ v.state = .fetching) := exec_moverAbort_withdraws hb hn hp
    (by change v.state ≠ _; rcases state with h | h <;> rw [h] <;> nofun)
    (by change v.state ≠ _; rcases state with h | h <;> rw [h] <;> nofun)
  have bare_executing (h : bare) : (s.executing m).bare k := by
    unfold State.bare
    rw [mover]
    exact h
  have once (state : v.state = .gated ∨ v.state = .fetching) (h : bare) :
      (s.executing m).withdrawnOnce k = (s.executing m).withdrawFetch k := by
    have not_faulting : ((s.executing m).mover k).state ≠ .faulting := by
      rw [mover]
      rcases state with h | h <;> rw [h] <;> nofun
    rw [State.withdrawnOnce, if_neg not_faulting, State.withdraw_bare (bare_executing h)]
  refine ⟨fun idle => ?_, fun halted => ?_, fun state is_bare other => ?_, fun f fetching is_bare flying own waiting => ?_,
    fun faulting busy => ?_, fun idle halted => ?_⟩
  · have entry := moverAbortEntry_idle (s := s.executing m) names (by rw [mover]; exact idle)
    exact congrArg _ (State.finish_takeMgmt_plain hb hn hc hl entry (.inr rfl) notManager)
  · have entry := moverAbortEntry_halted (s := s.executing m) names (by rw [mover]; exact halted)
    rw [mover] at entry
    exact congrArg _ (State.finish_takeMgmt_setMover hb hn hc hl entry (.inl rfl) notManager)
  · have quiet : ((s.executing m).withdrawFetch k).quiet k = true := by
      rw [State.quiet_withdrawFetch (bare_executing is_bare),
        Fetcher.owns_withdraw_other (g := (s.executing m).fetcher) other]
      rfl
    have step := (withdraws state).1
    rw [once state is_bare] at step
    refine (step quiet).trans (congrArg Host.Outcome.next ?_)
    rw [State.withdrawFetch_mover, mover, State.withdrawFetch,
      Fetcher.withdraw_other (g := (s.executing m).fetcher) other, State.setMover_withMgmt]
    rfl
  · have withdrawn := Fetcher.withdraw_own flying own waiting
    have owned : (s.fetcher.withdraw k).owns k = true := by
      rw [withdrawn, Fetcher.owns, Bool.or_eq_true]
      exact .inr (decide_eq_true own)
    have busy : ((s.executing m).withdrawFetch k).quiet k ≠ true := by
      rw [State.quiet_withdrawFetch (bare_executing is_bare), show (s.executing m).fetcher = s.fetcher from rfl, owned]
      decide
    have step := (withdraws (.inr fetching)).2
    rw [once (.inr fetching) is_bare] at step
    refine (step busy).trans (congrArg Host.Outcome.next ?_)
    rw [State.withdrawFetch_mover, mover, State.withdrawFetch, show (s.executing m).fetcher = s.fetcher from rfl,
      withdrawn, State.setMover_withMgmt]
    rfl
  · have same : (s.executing m).withdrawnOnce k = s.executing m := if_pos (by rw [mover]; exact faulting)
    have not_quiet : (s.executing m).quiet k ≠ true := by
      rw [Ne, State.quiet_iff]
      exact busy
    have step := (exec_moverAbort_withdraws hb hn hp (by change v.state ≠ _; rw [faulting]; nofun)
      (by change v.state ≠ _; rw [faulting]; nofun)).2
    rw [same] at step
    refine (step not_quiet).trans (congrArg Host.Outcome.next ?_)
    rw [mover, State.setMover_withMgmt]
    rfl
  · obtain ⟨quietly, drains⟩ := exec_moverAbort_withdraws hb hn hp idle halted
    obtain ⟨-, core⟩ := State.withdrawnOnce_givesUp (s.executing m) k
    have kept := core k
    rw [mover] at kept
    simp only [Mover.core, Prod.mk.injEq] at kept
    obtain ⟨-, -, -, -, -, fault, -, completed⟩ := kept
    by_cases quiet : ((s.executing m).withdrawnOnce k).quiet k = true
    · obtain ⟨record, is_quiet, acts, events, withdrawn⟩ := State.withdrawnOnce_ends s m k
        ((((s.executing m).withdrawnOnce k).mover k).ended .idle none) done.mgmt rfl rfl rfl
      refine ⟨_, quietly quiet, fun _ => ⟨by rw [record], rfl⟩, fun busy => absurd (is_quiet.2 quiet) busy, ?_, ?_, ?_,
        acts, events, withdrawn⟩ <;> rw [record]
      · exact fault
      · exact completed
    · obtain ⟨record, is_quiet, acts, events, withdrawn⟩ := State.withdrawnOnce_ends s m k
        { ((s.executing m).withdrawnOnce k).mover k with state := .aborting, resume := none }
        (s.deferredBy c m (.moverAbort k)).mgmt rfl rfl rfl
      refine ⟨_, drains quiet, fun h => absurd (is_quiet.1 h) quiet, fun _ => ⟨by rw [record], rfl⟩, ?_, ?_, ?_,
        acts, events, withdrawn⟩ <;> rw [record]
      · exact fault
      · exact completed

end Sys2Proof.Machine
end

section
/-! READ_EVENTS (R171, R187) and CLAIM (R168, R191). -/

namespace Sys2Proof.Machine

variable {s t u : State} {c : RxCell} {m : Slot}

/-! ### The test of the attention condition (R189, R190) -/

/-- An unmasked event is pending. -/
def State.unmasked (s : State) : Prop :=
  ∃ n : Fin 16, s.events.records[n].pending = true ∧ s.mgmt.params.eventMask.getLsbD n.val = true

theorem State.testAttention_raises (manager : s.mgmt.claim.manager = some m) (idle : s.events.state = .idle)
    (unmasked : s.unmasked) : s.testAttention = s.raiseAttention m := by
  have condition : s.attentionCondition = true :=
    State.attentionCondition_iff.2 ⟨idle, (Claim.manager_isSome _).1 (manager ▸ rfl), unmasked⟩
  rw [State.testAttention, manager]
  exact if_pos condition

theorem State.testAttention_rests (rests : s.events.state = .sent ∨ ¬s.unmasked) : s.testAttention = s := by
  unfold State.testAttention
  split
  · refine if_neg ?_
    rw [State.attentionCondition_iff]
    rintro ⟨idle, -, unmasked⟩
    rcases rests with sent | masked
    · rw [sent] at idle
      cases idle
    · exact masked unmasked
  · rfl

/-- An occurrence is in its record. -/
def State.noted (s : State) (e : Event) : State :=
  { s with events :=
    { s.events with records := s.events.records.set e.number (s.events.records[e.number].bump) } }

theorem State.takeOccurrence_eq (s : State) (e : Event) : s.takeOccurrence e = (s.noted e).testAttention := rfl

theorem State.claimReport_raises (manager : s.mgmt.claim.manager = some m) (unmasked : s.unmasked) :
    s.claimReport = s.attentionToIdle.raiseAttention m :=
  State.testAttention_raises (s := s.attentionToIdle) manager rfl unmasked

theorem State.claimReport_rests (masked : ¬s.unmasked) : s.claimReport = s.attentionToIdle :=
  State.testAttention_rests (s := s.attentionToIdle) (.inr masked)

/-! ### READ_EVENTS -/

/-- A list of pairs laid flat: its bytes at the even and at the odd places. -/
theorem flatMap_pair_getD {α : Type} (f g : α → Byte) (l : List α) (n : Nat) (h : n < l.length) :
    (l.flatMap fun r => [f r, g r]).getD (2 * n) 0 = f l[n]
      ∧ (l.flatMap fun r => [f r, g r]).getD (2 * n + 1) 0 = g l[n] := by
  induction l generalizing n with
  | nil => cases h
  | cons r l ih =>
    cases n with
    | zero => exact ⟨rfl, rfl⟩
    | succ n => exact ih n (Nat.lt_of_succ_lt_succ h)

theorem flatMap_pair_length {α : Type} (f g : α → Byte) (l : List α) :
    (l.flatMap fun r => [f r, g r]).length = 2 * l.length := by
  induction l with
  | nil => rfl
  | cons r l ih =>
    rw [List.flatMap_cons, List.length_append, ih, List.length_cons]
    simp only [List.length_cons, List.length_nil]
    omega

/-- Every count is 0, no event is pending, and the attention state is IDLE (R187). -/
def State.eventsCleared (s : State) : State :=
  State.attentionToIdle
    { s with events :=
      { s.events with records := s.events.records.map fun r : EventRecord => r.subtract r } }

theorem State.eventsCleared_records (s : State) (n : Fin 16) :
    s.eventsCleared.events.records[n] = { pending := false, count := 0 } := by
  have entry : (s.events.records.map fun r : EventRecord => r.subtract r)[n]
      = s.events.records[n].subtract s.events.records[n] := Vector.getElem_map ..
  refine entry.trans ?_
  simp only [EventRecord.subtract, Nat.sub_self, ne_eq, not_true_eq_false, decide_false, Bool.and_false]

theorem State.clearEvents_eq (s : State) : s.clearEvents = s.eventsCleared := by
  refine State.testAttention_rests (s := s.eventsCleared) (.inr ?_)
  rintro ⟨n, pending, -⟩
  rw [State.eventsCleared_records] at pending
  cases pending

/-- Settles O42: every record is taken from itself, and no attention is due then. -/
theorem eventsRead : Obligations.EventsRead := by
  intro s c m hb hn hp
  have hc : commandOf c.payload = some .readEvents := by rw [hp]; rfl
  have hl : c.payload.length = Command.requestLength .readEvents := by rw [hp]; rfl
  have entry : readEventsEntry c (s.executing m) =
      ((s.executing m).eventsCleared, .reply .ok s.events.snapshotBytes) := by
    rw [readEventsEntry, State.clearEvents_eq]
    rfl
  have step := State.finish_takeMgmt_replies (t := (s.executing m).eventsCleared) hb hn hc hl notManager entry rfl rfl
    (.inl rfl)
  have read (n : Fin 16) := flatMap_pair_getD (fun r : EventRecord => if r.pending then 1#8 else 0#8)
    (fun r => byteOf r.count) s.events.records.toList n.val (by simp)
  refine ⟨_, congrArg Host.Outcome.next step, rfl, (s.executing m).eventsCleared_records, rfl, rfl, rfl, rfl, ?_,
    fun n => ?_⟩
  · exact (flatMap_pair_length _ _ _).trans (by simp)
  · obtain ⟨even, odd⟩ := read n
    rw [Vector.getElem_toList] at even odd
    exact ⟨even, odd⟩

end Sys2Proof.Machine
end

section
/-! CLAIM (R159, R160, R168, R190, R191). -/

namespace Sys2Proof.Machine

variable {s t r : State} {c : RxCell} {m : Slot} {e : Event}

/-! ### The report of an accepted CLAIM (R191) -/

/-- Attention has just been raised to `m`, for the records that stand (R190, R192, R193). -/
def EventUnit.attending (u : EventUnit) (m : Slot) (timer : Option Time) : EventUnit :=
  { u with
    state := .sent, number := u.number + 1, timer := timer
    waiting := some { dest := m, number := u.number + 1, pendingSet := u.pendingSet } }

/-- The attention state is IDLE (R191). -/
def EventUnit.rested (u : EventUnit) : EventUnit := { u with state := .idle, timer := none, waiting := none }

theorem State.claimReport_attends (manager : s.mgmt.claim.manager = some m) (unmasked : s.unmasked) :
    s.claimReport = { s with events := s.events.attending m s.repeatExpiry } := by
  rw [State.claimReport_raises manager unmasked]
  rfl

theorem State.claimReport_rested (masked : ¬s.unmasked) :
    s.claimReport = { s with events := s.events.rested } :=
  State.claimReport_rests masked

theorem State.noted_records (s : State) (e : Event) (n : Fin 16) :
    (s.noted e).events.records[n] = if n = e.number then s.events.records[n].bump else s.events.records[n] := by
  have entry : (s.noted e).events.records[n] =
      (s.events.records.set e.number (s.events.records[e.number].bump))[n] := rfl
  rw [entry]
  by_cases h : n = e.number
  · subst h
    rw [if_pos rfl]
    exact Vector.getElem_set_self ..
  · rw [if_neg h]
    exact Vector.getElem_set_ne e.number.isLt n.isLt fun same => h (Fin.ext same.symm)

/-- An occurrence takes no event from the pending ones. -/
theorem State.unmasked_noted (unmasked : s.unmasked) (e : Event) : (s.noted e).unmasked := by
  obtain ⟨n, pending, mask⟩ := unmasked
  refine ⟨n, ?_, mask⟩
  rw [State.noted_records]
  split
  · rfl
  · exact pending

/-! ### A takeover (R168, R191; log 12) -/

/-- What the Event Unit comes to by the report of a takeover to `m` and its occurrence `e`, in either order. -/
structure EventUnit.TakenOver (t : State) (m : Slot) (e : Event) (u : EventUnit) : Prop where
  records : u.records = (t.noted e).events.records
  attends : (t.noted e).unmasked → ∃ w : WaitingAttn, (u.state = .sent ∧ u.timer = t.repeatExpiry
    ∧ u.waiting = some w ∧ w.dest = m ∧ w.number = u.number)
    ∧ (u.number = t.events.number + 1 ∨ t.events.state = .idle ∧ u.number = t.events.number + 2)
    ∧ (w.pendingSet = (t.noted e).events.pendingSet
      ∨ t.unmasked ∧ u.number = t.events.number + 1 ∧ w.pendingSet = t.events.pendingSet)
  rests : ¬(t.noted e).unmasked → u = (t.noted e).events.rested

/-- The occurrence is taken before the report. -/
theorem State.claimReport_takeOccurrence (manager : t.mgmt.claim.manager = some m) (e : Event) :
    EventUnit.TakenOver t m e (t.takeOccurrence e).claimReport.events := by
  rw [State.takeOccurrence_eq]
  by_cases due : (t.noted e).unmasked
  · by_cases idle : t.events.state = .idle
    · rw [State.testAttention_raises (s := t.noted e) manager idle due,
        State.claimReport_attends (s := (t.noted e).raiseAttention m) manager due]
      exact ⟨rfl, fun _ => ⟨_, ⟨rfl, rfl, rfl, rfl, rfl⟩, .inr ⟨idle, BitVec.add_assoc ..⟩, .inl rfl⟩, fun h => absurd due h⟩
    · have sent : t.events.state = .sent := by
        cases h : t.events.state
        · exact absurd h idle
        · rfl
      rw [State.testAttention_rests (s := t.noted e) (.inl sent), State.claimReport_attends (s := t.noted e) manager due]
      exact ⟨rfl, fun _ => ⟨_, ⟨rfl, rfl, rfl, rfl, rfl⟩, .inl rfl, .inl rfl⟩, fun h => absurd due h⟩
  · rw [State.testAttention_rests (.inr due), State.claimReport_rested due]
    exact ⟨rfl, fun h => absurd h due, fun _ => rfl⟩

/-- The occurrence is taken after the report. -/
theorem State.takeOccurrence_claimReport (manager : t.mgmt.claim.manager = some m) (e : Event) :
    EventUnit.TakenOver t m e (t.claimReport.takeOccurrence e).events := by
  by_cases unmasked : t.unmasked
  · rw [State.claimReport_attends manager unmasked, State.takeOccurrence_eq,
      State.testAttention_rests (s := State.noted { t with events := _ } e) (.inl rfl)]
    exact ⟨rfl, fun _ => ⟨_, ⟨rfl, rfl, rfl, rfl, rfl⟩, .inl rfl, .inr ⟨unmasked, rfl, rfl⟩⟩,
      fun h => absurd (State.unmasked_noted unmasked e) h⟩
  · rw [State.claimReport_rested unmasked, State.takeOccurrence_eq]
    by_cases due : (t.noted e).unmasked
    · rw [State.testAttention_raises (s := State.noted { t with events := t.events.rested } e) manager rfl due]
      exact ⟨rfl, fun _ => ⟨_, ⟨rfl, rfl, rfl, rfl, rfl⟩, .inl rfl, .inl rfl⟩, fun h => absurd due h⟩
    · rw [State.testAttention_rests (s := State.noted { t with events := t.events.rested } e) (.inr due)]
      exact ⟨rfl, fun h => absurd h due, fun _ => rfl⟩

/-! ### The step of a CLAIM -/

/-- The OK reply is stored and the lapse timer restarts, whatever the report has done to the Event Unit. -/
theorem State.claim_concludes {u : EventUnit} {n : Nat} (accepted : r = { s.executing m with events := u, free := n }) :
    (r.conclude c (.reply .ok [])).restartLapse = { s.answered c m .ok [] with events := u, free := n } := by
  rw [accepted, State.conclude_reply _ c m .ok [] rfl (.inl rfl)]
  rfl

/-- Both orders of the report and CLAIM_CHANGE (log 12). -/
theorem State.acceptClaim_takeover (s : State) (m : Slot) :
    let t : State := { s with mgmt := { s.mgmt with claim := .claimed m }, free := s.free + 1 }
    ∃ u, s.acceptClaim m true = { t with events := u } ∧ EventUnit.TakenOver t m .claimChange u := by
  intro t
  by_cases first : Config.claimChangeFirst s.free = true
  · have accepted : s.acceptClaim m true = (t.takeOccurrence .claimChange).claimReport := if_pos first
    obtain ⟨u, taken⟩ := t.takeOccurrence_frame .claimChange
    obtain ⟨w, reported⟩ := (t.takeOccurrence .claimChange).claimReport_frame
    have facts := State.claimReport_takeOccurrence (t := t) (m := m) rfl .claimChange
    rw [reported, taken] at facts
    exact ⟨w, by rw [accepted, reported, taken], facts⟩
  · have accepted : s.acceptClaim m true = t.claimReport.takeOccurrence .claimChange := if_neg first
    obtain ⟨w, reported⟩ := t.claimReport_frame
    obtain ⟨u, taken⟩ := t.claimReport.takeOccurrence_frame .claimChange
    have facts := State.takeOccurrence_claimReport (t := t) (m := m) rfl .claimChange
    rw [taken, reported] at facts
    exact ⟨u, by rw [accepted, taken, reported], facts⟩

/-- Settles O39, by who holds the claim. -/
theorem claimAccepted : Obligations.ClaimAccepted := by
  intro s c m hb offers none_deferred hp source taken rep unmasked idle raised
  have hc : commandOf c.payload = some .claim := by rw [hp]; rfl
  have hl : c.payload.length = Command.requestLength .claim := by rw [hp]; rfl
  have low : c.header.source.toNat ≤ 31 := by rw [source]; exact slotByte_le m
  have slot : c.header.source.setWidth 5 = m := by rw [source, slotByte_setWidth]
  let held : State := { s with inbound := s.inbound.taken }
  have strangers (other : s.mgmt.claim.manager ≠ some m) :
      s.takeMgmt (some .claim) claimEntry claimStranger = claimStranger c held := by
    rw [State.takeMgmt_offered offers hc]
    refine State.handleCell_stranger (s := held) low (fun k manager is => ?_) _ _
    exact other (slotByte_inj (source.symm.trans is) ▸ manager)
  have executes {body : Stranger} : openToAll body c held = body c held :=
    openToAll_executes (s := held) none_deferred hl
  refine ⟨fun accepts => ?_, fun k other lapsed => ?_, fun k other claimed => State.finish_to ?_ hb⟩
  · obtain ⟨ev, reported⟩ := (s.executing m).claimReport_frame
    have step : exec .claim s = .next { taken with events := ev } := by
      rcases accepts with unclaimed | ⟨manager, fresh⟩
      · refine State.finish_to ((strangers (by rw [unclaimed]; nofun)).trans (executes.trans ?_)) hb
        simp only [show held.mgmt.claim = .unclaimed from unclaimed]
        rw [State.claimAccepted, slot]
        exact State.claim_concludes (n := s.free) reported
      · have hn : s.newCommand c m := ⟨offers, manager, source, none_deferred, fresh⟩
        have entry : claimEntry c (s.executing m) = ({ s.executing m with events := ev }, .reply .ok []) := by
          rw [claimEntry, reported]
        exact congrArg _ (State.finish_takeMgmt_replies (t := { s.executing m with events := ev }) hb hn hc hl
          claimStranger entry rfl rfl (.inl rfl))
    by_cases due : (s.executing m).unmasked
    · obtain rfl : ev = s.events.attending m s.repeatExpiry :=
        congrArg State.events (reported.symm.trans (State.claimReport_attends (m := m) rfl due))
      exact ⟨_, step, rfl, rfl, fun _ => ⟨_, ⟨rfl, rfl, rfl, rfl, rfl⟩, rfl, s.events.pendingSet_bit⟩,
        fun masked => absurd due masked⟩
    · obtain rfl : ev = s.events.rested := congrArg State.events (reported.symm.trans (State.claimReport_rested due))
      exact ⟨_, step, rfl, rfl, fun h => absurd h due, fun _ => rfl⟩
  · obtain ⟨ev, accepted, records, attends, rests⟩ := held.acceptClaim_takeover m
    have step : exec .claim s = .next { taken with events := ev, free := s.free + 1 } := by
      refine State.finish_to ((strangers ?_).trans (executes.trans ?_)) hb
      · rw [lapsed]
        exact fun h => other (Option.some.inj h)
      · simp only [show held.mgmt.claim = .lapsed k from lapsed]
        rw [State.claimAccepted, slot]
        exact State.claim_concludes accepted
    have unmasked_iff : unmasked { taken with events := ev, free := s.free + 1 } ↔
        (s.noted .claimChange).unmasked := by
      simp only [unmasked, records]
      exact Iff.rfl
    refine ⟨_, step, rfl, fun n => ?_, fun due => ?_, fun masked => ?_⟩
    · simp only [records]
      exact s.noted_records .claimChange n
    · obtain ⟨w, sent, number, pending⟩ := attends (unmasked_iff.1 due)
      refine ⟨w, sent, number, pending.imp (fun set k => ?_) (fun ⟨before, count, set⟩ => ⟨before, count, fun k => ?_⟩)⟩
      · rw [set, EventUnit.pendingSet_bit]
        simp only [records]
      · rw [set]
        exact s.events.pendingSet_bit k
    · exact (rests fun h => masked (unmasked_iff.2 h)).trans (by rw [records]; rfl)
  · rw [strangers (by rw [claimed]; exact fun h => other (Option.some.inj h))]
    refine executes.trans ?_
    simp only [show held.mgmt.claim = .claimed k from claimed]
    exact State.sendReply_sentOnly (.inr rfl)

end Sys2Proof.Machine
end

section
/-! SET_PARAMS (R166, R172, R190, R194). -/

namespace Sys2Proof.Machine

variable {s t : State} {c : RxCell} {m : Slot} {p : List Byte} {n i lo hi : Nat} {f : ParamFields}

/-! ### The fields of a payload -/

theorem inRange_paramField : inRange lo hi (paramField p n i) = true ↔
    ¬((halfAt p 1).getLsbD n = true ∧ ((byteAt p i).toNat < lo ∨ hi < (byteAt p i).toNat)) := by
  unfold paramField presenceSet
  by_cases present : (halfAt p 1).getLsbD n = true
  · rw [if_pos present]
    simp only [inRange, Bool.and_eq_true, decide_eq_true_eq, present, true_and]
    omega
  · rw [if_neg present]
    exact iff_of_true rfl fun h => present h.1

/-- A byte is in the range 0–255. -/
theorem inRange_byte (p : List Byte) (n i : Nat) : inRange 0 255 (paramField p n i) = true := by
  rw [inRange_paramField]
  have := (byteAt p i).isLt
  omega

theorem paramField_getD (was : Nat) :
    (paramField p n i).getD was = if (halfAt p 1).getLsbD n then (byteAt p i).toNat else was := by
  unfold paramField presenceSet
  split <;> rfl

theorem paramField_isSome : (paramField p n i).isSome = (halfAt p 1).getLsbD n := by
  unfold paramField presenceSet
  split
  · next present => exact present.symm
  · next absent => exact (Bool.not_eq_true _ ▸ absent : _ = false).symm

/-- The ranges that R166 gives. -/
theorem paramFields_valid_iff : (paramFields p).valid = true ↔
    ¬(((halfAt p 1).getLsbD 0 = true ∧ ((byteAt p 3).toNat < 1 ∨ 255 < (byteAt p 3).toNat))
      ∨ ((halfAt p 1).getLsbD 1 = true ∧ ((byteAt p 4).toNat < 1 ∨ 15 < (byteAt p 4).toNat))
      ∨ ((halfAt p 1).getLsbD 4 = true ∧ ((byteAt p 7).toNat < 1 ∨ 15 < (byteAt p 7).toNat))
      ∨ ((halfAt p 1).getLsbD 5 = true ∧ ((byteAt p 8).toNat < 1 ∨ 31 < (byteAt p 8).toNat))
      ∨ ((halfAt p 1).getLsbD 6 = true ∧ ((byteAt p 9).toNat < 1 ∨ 16 < (byteAt p 9).toNat))
      ∨ ((halfAt p 1).getLsbD 7 = true ∧ ((byteAt p 10).toNat < 1 ∨ 16 < (byteAt p 10).toNat))) := by
  simp only [ParamFields.valid, paramFields, Bool.and_eq_true, inRange_byte, and_true, inRange_paramField, not_or,
    and_assoc]

theorem MoverState.resting_iff (x : MoverState) : x.resting = true ↔ x = .idle ∨ x = .halted := by
  cases x <;> simp [MoverState.resting]

/-- The two tag limits that R172 checks. -/
theorem paramFields_busy_iff : (((paramFields p).tagLimit0.isSome && !s.mover0.state.resting)
      || ((paramFields p).tagLimit1.isSome && !s.mover1.state.resting)) = true ↔
    ((halfAt p 1).getLsbD 6 = true ∧ s.mover0.state ≠ .idle ∧ s.mover0.state ≠ .halted)
      ∨ ((halfAt p 1).getLsbD 7 = true ∧ s.mover1.state ≠ .idle ∧ s.mover1.state ≠ .halted) := by
  have busy (x : MoverState) : (!x.resting) = true ↔ x ≠ .idle ∧ x ≠ .halted := by
    rw [Bool.not_eq_true', ← Bool.not_eq_true, MoverState.resting_iff, not_or]
  simp only [paramFields, paramField_isSome, Bool.or_eq_true, Bool.and_eq_true, busy]

/-! ### The entry -/

theorem setParamsEntry_bad (bad : 0x200 ≤ (halfAt c.payload 1).toNat ∨ ¬(paramFields c.payload).valid = true) :
    setParamsEntry c s = (s, .reply .badArgument []) := by
  unfold setParamsEntry
  dsimp only
  by_cases unnamed : (presenceSet c.payload).toNat ≥ 0x200
  · rw [if_pos unnamed]
  · have invalid : (!(paramFields c.payload).valid) = true := by
      rw [Bool.not_eq_true', ← Bool.not_eq_true]
      exact bad.resolve_left unnamed
    rw [if_neg unnamed, if_pos invalid]

theorem setParamsEntry_good (named : ¬0x200 ≤ (halfAt c.payload 1).toNat)
    (valid : (paramFields c.payload).valid = true) : setParamsEntry c s =
      if ((paramFields c.payload).tagLimit0.isSome && !s.mover0.state.resting)
        || ((paramFields c.payload).tagLimit1.isSome && !s.mover1.state.resting) then (s, .reply .wrongState [])
      else (s.applyParams (paramFields c.payload),
        .reply .ok (s.applyParams (paramFields c.payload)).mgmt.params.bytes) := by
  have is_valid : ¬(!(paramFields c.payload).valid) = true := by rw [valid]; decide
  exact (if_neg named).trans (if_neg is_valid)

/-! ### What the new parameters do to the Event Unit (R194) -/

/-- The state with its parameters set. -/
def State.withParams (s : State) (f : ParamFields) : State :=
  { s with mgmt := { s.mgmt with params := f.apply s.mgmt.params } }

/-- A timer that SET_PARAMS has restarted, or not. -/
theorem State.repeatTaken_frame (s : State) (changed : Bool) : s.repeatTaken changed =
    { s with events := { s.events with
      timer := if changed = true ∧ s.events.state = .sent then s.repeatExpiry else s.events.timer } } := by
  unfold State.repeatTaken
  by_cases restarts : changed = true ∧ s.events.state = .sent
  · rw [if_pos (by simpa only [Bool.and_eq_true, decide_eq_true_eq] using restarts), if_pos restarts]
  · rw [if_neg (by simpa only [Bool.and_eq_true, decide_eq_true_eq] using restarts), if_neg restarts]

/-- A present mask that lets a pending event through raises attention. -/
theorem State.applyParams_attends (manager : s.mgmt.claim.manager = some m) (present : f.eventMask.isSome = true)
    (idle : s.events.state = .idle) (due : (s.withParams f).unmasked) :
    s.applyParams f = { s.withParams f with events := s.events.attending m (s.withParams f).repeatExpiry } := by
  have quiet (changed : Bool) : (s.withParams f).repeatTaken changed = s.withParams f := by
    rw [State.repeatTaken_frame, if_neg fun h => by rw [show s.events.state = .sent from h.2] at idle; cases idle]
  have applied : s.applyParams f = (s.withParams f).maskTaken f.eventMask.isSome :=
    congrArg (State.maskTaken · f.eventMask.isSome) (quiet _)
  rw [applied, State.maskTaken, if_pos present, State.testAttention_raises (s := s.withParams f) manager idle due]
  rfl

/-- Otherwise the repeat timer alone may restart. -/
theorem State.applyParams_rests
    (rests : ¬(f.eventMask.isSome = true ∧ s.events.state = .idle ∧ (s.withParams f).unmasked)) :
    s.applyParams f = { s.withParams f with events := { s.events with
      timer := if repeatChanged s.mgmt.params.attentionRepeat f.attentionRepeat = true ∧ s.events.state = .sent
        then (s.withParams f).repeatExpiry else s.events.timer } } := by
  have applied : s.applyParams f = ((s.withParams f).repeatTaken
      (repeatChanged s.mgmt.params.attentionRepeat f.attentionRepeat)).maskTaken f.eventMask.isSome := rfl
  rw [applied, State.repeatTaken_frame, State.maskTaken]
  split
  · next present =>
    refine State.testAttention_rests ?_
    cases state : s.events.state with
    | sent => exact .inl state
    | idle => exact .inr fun due => rests ⟨present, state, due⟩
  · rfl

/-- A timer that a changed attention repeat restarts runs to the new expiry; one kept for an unchanged value runs on
(log 13). -/
theorem restarted_timer {was : Nat} {asked : Option Nat} {timer expiry : Option Time} (present : asked.isSome = true) :
    (if repeatChanged was asked = true then expiry else timer) = expiry
      ∨ (asked.getD was = was ∧ (if repeatChanged was asked = true then expiry else timer) = timer) := by
  cases asked with
  | none => cases present
  | some v =>
    by_cases changed : repeatChanged was (some v) = true
    · exact .inl (if_pos changed)
    · refine .inr ⟨?_, if_neg changed⟩
      simp only [repeatChanged, Bool.or_eq_true, decide_eq_true_eq, not_or, ne_eq, not_not] at changed
      exact changed.1

/-! ### The command -/

theorem paramFields_eventMask_isSome : (paramFields p).eventMask.isSome = (halfAt p 1).getLsbD 8 := by
  unfold paramFields presenceSet
  dsimp only
  split
  · next present => exact present.symm
  · next absent => exact (Bool.not_eq_true _ ▸ absent : _ = false).symm

theorem paramFields_apply (p : List Byte) (old : Params) : (paramFields p).apply old =
    (let pick := fun (n i : Nat) (was : Nat) => if (halfAt p 1).getLsbD n then (byteAt p i).toNat else was
    { responseTimeout := pick 0 3 old.responseTimeout, memoryTimeout := pick 1 4 old.memoryTimeout
      attentionRepeat := pick 2 5 old.attentionRepeat, claimLapse := pick 3 6 old.claimLapse
      passCount := pick 4 7 old.passCount, hopLimit := pick 5 8 old.hopLimit
      tagLimit0 := pick 6 9 old.tagLimit0, tagLimit1 := pick 7 10 old.tagLimit1
      eventMask := if (halfAt p 1).getLsbD 8 then halfAt p 11 else old.eventMask }) := by
  have mask : (paramFields p).eventMask.getD old.eventMask =
      if (halfAt p 1).getLsbD 8 then halfAt p 11 else old.eventMask := by
    unfold paramFields presenceSet
    dsimp only
    split <;> rfl
  unfold ParamFields.apply
  rw [mask]
  simp only [paramFields, paramField_getD]

/-- An accepted SET_PARAMS (R172). -/
theorem State.setParams_step {u : EventUnit} (hb : s.between) (hn : s.newCommand c m)
    (hc : commandOf c.payload = some .setParams) (hl : c.payload.length = 13)
    (applied : (s.executing m).applyParams f = { (s.executing m).withParams f with events := u })
    (entry : setParamsEntry c (s.executing m) =
      ((s.executing m).applyParams f, .reply .ok ((s.executing m).applyParams f).mgmt.params.bytes)) :
    exec .setParams s = .next { (s.withParams f).answered c m .ok (f.apply s.mgmt.params).bytes with events := u } := by
  rw [applied] at entry
  exact State.finish_to (State.takeMgmt_answered hn hc hl _ notManager entry rfl (.inl rfl)) hb

/-- Settles O43, by the checks of the entry and by whether the new mask lets an event through. -/
theorem paramsSet : Obligations.ParamsSet := by
  intro s c m hb hn length code p has field outside bad busy refused old pick new results expiry due
  have hc : commandOf c.payload = some .setParams := commandOf_of_code length code
  have plain {st : Status} (entry : setParamsEntry c (s.executing m) = (s.executing m, .reply st [])) :
      exec .setParams s = .next (s.answered c m st []) :=
    congrArg _ (State.finish_takeMgmt_plain hb hn hc length entry (.inr rfl) notManager)
  have good_iff : ¬bad ↔ ¬0x200 ≤ (halfAt p 1).toNat ∧ (paramFields p).valid = true := by
    rw [paramFields_valid_iff, ← not_or]
  have busy_iff := paramFields_busy_iff (s := s.executing m) (p := p)
  refine ⟨fun is_bad => plain (setParamsEntry_bad ?_), fun good is_busy => ?_, fun good free => ?_⟩
  · rw [← Classical.not_not (a := bad), good_iff, not_and_or, not_not] at is_bad
    exact is_bad
  · obtain ⟨named, valid⟩ := good_iff.1 good
    exact plain ((setParamsEntry_good named valid).trans (if_pos (busy_iff.2 is_busy)))
  · obtain ⟨named, valid⟩ := good_iff.1 good
    have entry := (setParamsEntry_good (s := s.executing m) named valid).trans
      (if_neg fun is_busy => free (busy_iff.1 is_busy))
    have params : (paramFields p).apply old = new := paramFields_apply p old
    have withParams : s.withParams (paramFields p) = { s with mgmt := { s.mgmt with params := new } } :=
      congrArg (fun x => { s with mgmt := { s.mgmt with params := x } }) params
    have expires : ((s.executing m).withParams (paramFields p)).repeatExpiry = expiry :=
      congrArg (fun x : Params => if x.attentionRepeat = 0 then none else some (s.now + 1000 * x.attentionRepeat)) params
    have due_iff : due ↔ (paramFields p).eventMask.isSome = true ∧ s.events.state = .idle
        ∧ ((s.executing m).withParams (paramFields p)).unmasked := by
      rw [paramFields_eventMask_isSome]
      simp only [due, ← params]
      exact Iff.rfl
    have step {u : EventUnit}
        (applied : (s.executing m).applyParams (paramFields p) =
          { (s.executing m).withParams (paramFields p) with events := u }) :
        exec .setParams s = .next
          { State.answered { s with mgmt := { s.mgmt with params := new } } c m .ok results with events := u } := by
      have taken := State.setParams_step hb hn hc length applied entry
      rw [withParams, params] at taken
      exact taken
    by_cases is_due : due
    · obtain ⟨present, idle, unmasked⟩ := due_iff.1 is_due
      refine ⟨_, step (State.applyParams_attends (m := m) rfl present idle unmasked), rfl, rfl, fun _ => ?_,
        fun masked => absurd is_due masked⟩
      exact ⟨rfl, rfl, expires, _, rfl, rfl, rfl, s.events.pendingSet_bit⟩
    · refine ⟨_, step (State.applyParams_rests fun h => is_due (due_iff.2 h)), rfl, rfl, fun h => absurd h is_due,
        fun _ => ⟨rfl, fun still => if_neg ?_, fun given sent => ?_⟩⟩
      · rintro ⟨changed, sent⟩
        rcases still with absent | idle
        · have not_given : (paramFields p).attentionRepeat = none := if_neg (ne_true_of_eq_false absent)
          rw [not_given] at changed
          cases changed
        · exact absurd (idle.symm.trans sent) nofun
      · have present : (paramFields p).attentionRepeat.isSome = true := paramField_isSome.trans given
        have restart := restarted_timer (was := old.attentionRepeat) (timer := s.events.timer) (expiry := expiry) present
        have kept : (paramFields p).attentionRepeat.getD old.attentionRepeat = new.attentionRepeat :=
          congrArg Params.attentionRepeat params
        have timer (changed : Bool) : (if changed = true ∧ s.events.state = .sent
            then ((s.executing m).withParams (paramFields p)).repeatExpiry else s.events.timer) =
            if changed = true then expiry else s.events.timer := by
          rw [expires]
          simp only [sent, and_true]
        rw [kept] at restart
        exact (timer _).symm ▸ restart

end Sys2Proof.Machine
end
